-- ==== Sys2Proof/Word.lean ====
section
/-! DEFINITION. The value types of the block: bytes, operation words, handler tags and byte
sequences (00_scope.md R11, 10_state.md R26, 30_encoding.md R90). -/

namespace Sys2Proof

/-- An unsigned integer 0 to 255 (00_scope.md R11). -/
abbrev Byte := BitVec 8

/-- A 16-bit operation word (30_encoding.md R90). -/
abbrev Word16 := BitVec 16

/-- The 7-bit tag that names a handler (10_state.md R26). -/
abbrev Tag := BitVec 7

/-- A finite ordered list of bytes (00_scope.md R11). -/
abbrev ByteSeq := List Byte

end Sys2Proof
end

