-- ==== Sys2Proof/Config.lean ====
section
/-! DEFINITION. The parameters of one instance of the block (00_scope.md R8), which are fixed at
construction and which no operation writes (R97): the machine's state carries them as the read-only
straps of 10_state.md R28. After them, what passes between the host and the block, and the host's
handler as a function that nothing constrains (60_exceptions.md R203). -/

namespace Sys2Proof

/-- Which codec the Reassembler and the Framer use (R8, R28). -/
inductive Codec where
  | cobs
  | slip
deriving DecidableEq, Repr

/-- What `SLIP_DEC` returns when the last input byte is a lone `ESC` (R8, 41_slip_codec.md R137). -/
inductive SlipTrailEsc where
  | drop
  | zero
deriving DecidableEq, Repr

/-- The configuration of one instance (R8). -/
structure Config where
  /-- `CODEC`. -/
  codec : Codec
  /-- `MARKER`, independent of the codec (D6). -/
  marker : Byte
  /-- `CAPACITY`, the number of bytes of the receive buffer. -/
  capacity : Nat
  /-- `SINK_EN`, whether a byte sink is configured. -/
  sinkEn : Bool
  /-- `SLIP_TRAIL_ESC`. -/
  slipTrailEsc : SlipTrailEsc
  /-- `LENW`, the width in bits of every length; `none` is infinity. -/
  lenw : Option Nat
deriving DecidableEq, Repr

/-- The default `MARKER` of a codec (R8). -/
def Codec.defaultMarker : Codec → Byte
  | .cobs => 0x00
  | .slip => 0xC0

/-- The configuration in which every parameter but `CODEC` has its default (R8). -/
def Config.ofCodec (c : Codec) : Config :=
  { codec := c, marker := c.defaultMarker, capacity := 256, sinkEn := true,
    slipTrailEsc := .drop, lenw := none }

/-! ### What passes between the host and the block -/

/-- What the host puts in front of the block to issue one operation: the operation word, and what
the data-in and the argument channel carry with it (30_encoding.md R90, R91; DESIGN CHOICE, entry 2:
a format that takes no operand from a channel ignores it). -/
structure Request where
  word : Word16
  data : ByteSeq
  arg : Nat
deriving DecidableEq, Repr

namespace Machine

/-- What an operation returns to the host on the result channel (00_scope.md R13, 30_encoding.md
R95). -/
inductive Result where
  | seq (bytes : ByteSeq)
  | nat (n : Nat)
  | bool (b : Bool)
deriving DecidableEq, Repr

/-- One line of the host's list: an operation it issues, or an `ENV RXQ += [..]` line, with which the
environment appends to the byte source before the next operation (30_encoding.md R99). -/
inductive HostLine where
  | op (r : Request)
  | rxq (bytes : ByteSeq)
deriving DecidableEq, Repr

end Machine

/-! ### The host's handler -/

/-- A packet handler of the host as 60_exceptions.md R203 has it, a function of the packet event (tag
and bytes) and of the host's own state: the operations it issues before it returns, and the
value its variables take at the dispatch, before those operations are performed (DESIGN CHOICE, entry
27). The host's own state is its variables, coded as one number, and what the block
has answered it so far. It has no body, so a claim about it holds of every such function (entry 27). -/
opaque Config.freeHandler (vars : Nat) (answered : List Machine.Result) (hid : Tag)
    (bytes : ByteSeq) : List Machine.HostLine × Nat

end Sys2Proof
end

