-- ==== Sys2Proof/Machine/Operands.lean ====
section
/-! DEFINITION. Operand forms: the fields of the operation word (30_encoding.md R90, R93), the
`SET_HANDLER` operand, and the length test of a finite `LENW` (R93, 93_implementation_defined.md
U13). -/

namespace Sys2Proof.Machine

/-- Whether a length or index `n` fits in `LENW` bits; every natural fits an infinite `LENW`
(R8, R93). -/
def fits (lenw : Option Nat) (n : Nat) : Bool :=
  match lenw with
  | none => true
  | some w => decide (n < 2 ^ w)

/-- `opc = w[15:12]` (R90). -/
def opcField (w : Word16) : BitVec 4 := w.extractLsb' 12 4

/-- `rsv = w[11:8]` (R90). -/
def rsvField (w : Word16) : BitVec 4 := w.extractLsb' 8 4

/-- `imm8 = w[7:0]` (R90). -/
def imm8Field (w : Word16) : Byte := w.extractLsb' 0 8

/-- The word with the given `opc` and `imm8` and with `rsv = 0` (R90). -/
def opWord (opc : BitVec 4) (imm8 : Byte) : Word16 := opc ++ (0#4) ++ imm8

/-- `present`, bit 7 of a `SET_HANDLER` operand (R93). -/
def presentField (imm8 : Byte) : Bool := imm8.getLsbD 7

/-- `hid`, bits 6:0 of a `SET_HANDLER` operand (R93). -/
def hidField (imm8 : Byte) : Tag := imm8.extractLsb' 0 7

/-- The operand byte that names a value of `HND`: `0x80 + hid` for `some hid`, 0 for `none`
(42_reassembler.md R164). -/
def handlerImm : Option Tag → Byte
  | none => 0x00
  | some hid => (1#1) ++ hid

end Sys2Proof.Machine
end

