-- ==== Sys2Proof/Machine/Flags.lean ====
section
/-! DEFINITION. The block's one flag, `OVF`, and the test that sets it (10_state.md R24,
42_reassembler.md R152, R153). -/

namespace Sys2Proof.Machine

/-- The append test of `RX_BYTE`, `CURSOR + 1 < CAPACITY` on natural numbers (R152). -/
def hasRoom (cursor capacity : Nat) : Bool := decide (cursor + 1 < capacity)

/-- `OVF` after a non-marker byte: kept when the byte is stored, set when it is dropped (R152). -/
def ovfAfterByte (room ovf : Bool) : Bool := if room then ovf else true

/-- `OVF` after a marker event (R153). -/
def ovfAfterMarker : Bool := false

end Sys2Proof.Machine
end

