-- ==== Sys2Proof/Syntax.lean ====
section
/-! DEFINITION. The operations of the block, one constructor per row of spec/opcode_table.json
(00_scope.md R3, 30_encoding.md R92), with the operands they take: the byte or handler value of the
word itself, and the byte sequence or natural number of the operand channels (R91). -/

namespace Sys2Proof

/-- One operation with its operands. -/
inductive Instr where
  /-- `COBS_ENC src`, 40_cobs_codec.md R111. -/
  | cobsEnc (src : ByteSeq)
  /-- `COBS_DEC src`, 40_cobs_codec.md R114. -/
  | cobsDec (src : ByteSeq)
  /-- `COBS_MAX n`, 40_cobs_codec.md R118. -/
  | cobsMax (n : Nat)
  /-- `SLIP_ENC src`, 41_slip_codec.md R132. -/
  | slipEnc (src : ByteSeq)
  /-- `SLIP_DEC src`, 41_slip_codec.md R135. -/
  | slipDec (src : ByteSeq)
  /-- `SLIP_MAX n`, 41_slip_codec.md R140. -/
  | slipMax (n : Nat)
  /-- `RX_BYTE b`, 42_reassembler.md R151. -/
  | rxByte (b : Byte)
  /-- `RX_DRAIN`, 42_reassembler.md R160. -/
  | rxDrain
  /-- `RX_OVF`, 42_reassembler.md R162. -/
  | rxOvf
  /-- `SET_HANDLER v`, 42_reassembler.md R164. -/
  | setHandler (v : Option Tag)
  /-- `TX_SEND p`, 43_framer.md R180. -/
  | txSend (p : ByteSeq)
  /-- `RESET`, 70_reset_and_hazards.md R220. -/
  | reset
deriving DecidableEq, Repr

end Sys2Proof
end

