-- ==== Sys2Proof/WellFormed.lean ====
section
/-! DEFINITION. What the spec requires of a configuration (00_scope.md R10) and of the operands of an
operation under a configuration (30_encoding.md R93). -/

namespace Sys2Proof

/-- A configuration is well formed when `CAPACITY >= 2` and, with a finite `LENW`,
`CAPACITY < 2^LENW` (R10). -/
def Config.wf (c : Config) : Bool :=
  decide (2 ≤ c.capacity) && Machine.fits c.lenw c.capacity

/-- An operation is well formed under a configuration when the length of its sequence operand, or its
number operand, fits in `LENW` bits (R93). A byte operand and a handler operand always do. -/
def Instr.wf (c : Config) : Instr → Bool
  | .cobsEnc src => Machine.fits c.lenw src.length
  | .cobsDec src => Machine.fits c.lenw src.length
  | .cobsMax n => Machine.fits c.lenw n
  | .slipEnc src => Machine.fits c.lenw src.length
  | .slipDec src => Machine.fits c.lenw src.length
  | .slipMax n => Machine.fits c.lenw n
  | .rxByte _ => true
  | .rxDrain => true
  | .rxOvf => true
  | .setHandler _ => true
  | .txSend p => Machine.fits c.lenw p.length
  | .reset => true

end Sys2Proof
end

