-- ==== Sys2Proof/Decode.lean ====
section
/-! DEFINITION. Decoding an issued request into an operation, total on every word, rejecting by name
(30_encoding.md R90 to R96), and the encoder written from the same tables. -/

namespace Sys2Proof

open Machine

/-- Why an operation word is illegal (R96). Each makes the block refuse the word, which is safe. -/
inductive DecodeError where
  /-- `rsv != 0`. -/
  | reservedBits
  /-- `opc` is 0x0, 0x7, 0xD or 0xE. -/
  | reservedOpcode
  /-- `imm8 != 0` in a word of format N, S or L. -/
  | immediateNotZero
  /-- A `SET_HANDLER` word with `present = 0` and `hid != 0`. -/
  | tagWithoutHandler
deriving DecidableEq, Repr

/-- The operation `i` of a format N, S or L word, whose `imm8` must be 0 (R90, R96). -/
def withoutImm (imm8 : Byte) (i : Instr) : Except DecodeError Instr :=
  if imm8 = 0 then .ok i else .error .immediateNotZero

/-- The `SET_HANDLER` of an operand byte (R93, R96). -/
def decodeSetHandler (imm8 : Byte) : Except DecodeError Instr :=
  if presentField imm8 then .ok (.setHandler (some (hidField imm8)))
  else if hidField imm8 = 0 then .ok (.setHandler none)
  else .error .tagWithoutHandler

/-- The operation an `opc` and an `imm8` name, with the operands of the channels (R92, R93). -/
def decodeOpc (opc : BitVec 4) (imm8 : Byte) (data : ByteSeq) (arg : Nat) :
    Except DecodeError Instr :=
  match opc.toNat with
  | 0x1 => withoutImm imm8 (.cobsEnc data)
  | 0x2 => withoutImm imm8 (.cobsDec data)
  | 0x3 => withoutImm imm8 (.cobsMax arg)
  | 0x4 => withoutImm imm8 (.slipEnc data)
  | 0x5 => withoutImm imm8 (.slipDec data)
  | 0x6 => withoutImm imm8 (.slipMax arg)
  | 0x8 => .ok (.rxByte imm8)
  | 0x9 => withoutImm imm8 .rxDrain
  | 0xA => withoutImm imm8 .rxOvf
  | 0xB => decodeSetHandler imm8
  | 0xC => withoutImm imm8 (.txSend data)
  | 0xF => withoutImm imm8 .reset
  | _ => .error .reservedOpcode

/-- The operation a request issues, or the name of what makes its word illegal (R96). -/
def decode (r : Request) : Except DecodeError Instr :=
  if rsvField r.word = 0 then decodeOpc (opcField r.word) (imm8Field r.word) r.data r.arg
  else .error .reservedBits

/-- The request that issues an operation (R91 to R94): its word, its sequence operand on the data-in
channel, its number operand on the argument channel, and nothing on a channel its format does not
read. -/
def encode : Instr → Request
  | .cobsEnc src => { word := opWord 0x1 0, data := src, arg := 0 }
  | .cobsDec src => { word := opWord 0x2 0, data := src, arg := 0 }
  | .cobsMax n => { word := opWord 0x3 0, data := [], arg := n }
  | .slipEnc src => { word := opWord 0x4 0, data := src, arg := 0 }
  | .slipDec src => { word := opWord 0x5 0, data := src, arg := 0 }
  | .slipMax n => { word := opWord 0x6 0, data := [], arg := n }
  | .rxByte b => { word := opWord 0x8 b, data := [], arg := 0 }
  | .rxDrain => { word := opWord 0x9 0, data := [], arg := 0 }
  | .rxOvf => { word := opWord 0xA 0, data := [], arg := 0 }
  | .setHandler v => { word := opWord 0xB (handlerImm v), data := [], arg := 0 }
  | .txSend p => { word := opWord 0xC 0, data := p, arg := 0 }
  | .reset => { word := opWord 0xF 0, data := [], arg := 0 }

/-- The request with the `nbits` low bits of `w` as its word and nothing on the operand channels: an
empty sequence and the number 0 (entry 23). -/
def tableRequest (nbits w : Nat) : Request :=
  { word := BitVec.ofNat 16 (w % 2 ^ nbits), data := [], arg := 0 }

/-- The operation the decoder reads from a word numbered as spec/opcode_table.json numbers it. -/
def decodeTableWord (nbits w : Nat) : Option Instr :=
  match decode (tableRequest nbits w) with
  | .ok i => some i
  | .error _ => none

end Sys2Proof
end

