-- ==== Sys2Proof/Machine/State.lean ====
section
/-! DEFINITION. The machine's state as plain data: the block's registers and buffer (10_state.md), its
configuration straps (R28), the channels it reads and writes (00_scope.md R14), and the parameters of
the step that 10_state.md R33 and 60_exceptions.md R203 name, written as lists. -/

namespace Sys2Proof.Machine

/-- Why the machine stops with a fault. The spec's block never faults (00_scope.md R13,
60_exceptions.md R190); both faults are the model's own guard on `RXBUF` (entry 3), safe, and
unreachable from reset (10_state.md R27). -/
inductive Fault where
  /-- A read of an `RXBUF` byte that nothing has written, raised by the decode of a marker event
  (93_implementation_defined.md U8). Safe. -/
  | rxbufUnwritten (index : Nat)
  /-- An access at an index outside `0 <= i < CAPACITY`, raised by `MemRead` and `MemWrite`
  (00_scope.md R12). Safe. -/
  | rxbufOutside (index : Nat)
deriving DecidableEq, Repr

/-- Why the machine refuses (00_scope.md R13): no state is changed and the run is marked refused. -/
inductive Refusal where
  /-- An operation without a meaning in this model. Raised by no arm of `exec`. Safe. -/
  | notModelled (mnemonic : String)
  /-- An illegal operation word (30_encoding.md R96), raised by the step. Safe. -/
  | illegalWord (why : DecodeError)
  /-- With a finite `LENW`, an operand or a result that does not fit (30_encoding.md R93,
  93_implementation_defined.md U13), raised by the codec operations and `TX_SEND`. Safe. -/
  | lengthDoesNotFit
  /-- A configuration that is not well formed (00_scope.md R10), raised by construction and by the
  step. Safe. -/
  | illFormedConfig
deriving DecidableEq, Repr

/-- A packet event `PKT(hid, bytes)`, carrying its bytes by value (42_reassembler.md R155). -/
structure PacketEvent where
  hid : Tag
  bytes : ByteSeq
deriving DecidableEq, Repr

/-- One line of a handler that is written down: a line of 30_encoding.md R99, or the issue of a word
with the packet's own bytes on the data-in channel and their count on the argument channel
(42_reassembler.md R155: the handler receives both). -/
inductive HandlerLine where
  | line (l : HostLine)
  | onPacket (word : Word16)
deriving DecidableEq, Repr

/-- What the handler of a tag does at a dispatch: issue the lines written down for it, or behave as
the handler that nothing constrains (60_exceptions.md R203, entry 27). -/
inductive HandlerRule where
  | lines (ls : List HandlerLine)
  | free
deriving DecidableEq, Repr

/-- Something begun and not ended: a list of lines of the host (its own, or the rest of a handler's
call), or an `RX_DRAIN` whose loop is to go on (42_reassembler.md R160, R163). -/
inductive Activity where
  | host (lines : List HostLine)
  | drain
deriving DecidableEq, Repr

/-- The state. The first five fields are the block's own (10_state.md R22 to R28); the next four are
the channels it reads and writes; the last six are the model's own (entries 4, 5, 6, 27). -/
structure State where
  /-- The straps, which no operation writes (R28, R97). -/
  cfg : Config
  /-- `RXBUF`: the written bytes by index, in canonical form (R22). -/
  rxbuf : List Host.Cell
  /-- `CURSOR` (R23). -/
  cursor : Nat
  /-- `OVF` (R24). -/
  ovf : Bool
  /-- `HND` (R26). -/
  hnd : Option Tag
  /-- `RXQ`, the byte source, oldest byte first. -/
  rxq : ByteSeq
  /-- `TXQ`, the byte sink, oldest byte first. -/
  txq : ByteSeq
  /-- `PKT`, the packet events, oldest first. -/
  pkt : List PacketEvent
  /-- The results, in issue order. -/
  results : List Result
  /-- What has begun and not ended, innermost first. -/
  calls : List Activity
  /-- What the environment appends to `RXQ` before each coming step. -/
  arrivals : List ByteSeq
  /-- What it appends before every step after those. -/
  arrivalsThen : ByteSeq
  /-- What the host issues at each coming dispatch. -/
  replies : List (List HostLine)
  /-- What the handler of a tag does at every dispatch after those. -/
  handlers : List (Tag × HandlerRule)
  /-- The host's own variables, coded as one number, which only a free handler reads and writes,
  both at its dispatch (60_exceptions.md R203, entry 27). -/
  hostVars : Nat
deriving DecidableEq, Repr

/-- A freshly constructed instance: the cleared state with no handler, no byte of `RXBUF` written,
the channels empty (10_state.md R35), nothing issued and nothing arriving. -/
def State.resetWith (c : Config) : State :=
  { cfg := c, rxbuf := [], cursor := 0, ovf := false, hnd := none, rxq := [], txq := [], pkt := [],
    results := [], calls := [], arrivals := [], arrivalsThen := [], replies := [], handlers := [],
    hostVars := 0 }

/-- The machine right after reset, in the default configuration with `CODEC = COBS`
(DESIGN CHOICE, entry 1: R8 gives `CODEC` no default). -/
def State.reset : State := State.resetWith (Config.ofCodec .cobs)

end Sys2Proof.Machine
end

