-- ==== Sys2Proof/Machine/Ops.lean ====
section
/-! DEFINITION. The shared operations: the accesses to `RXBUF`, the writes of registers and channels,
the dispatch of a packet event to the host's handler with the return from it, and what the machine
turns to next. -/

namespace Sys2Proof.Machine

/-- The answer of a meaning. -/
abbrev Answer := Host.Outcome State Fault Refusal

/-- What a codec's decode ends in: the decoded sequence with the spec's internal status `OK`, or
`FAIL` (00_scope.md R13, 60_exceptions.md R191). -/
inductive Decoded where
  | ok (dst : ByteSeq)
  | fail
deriving DecidableEq, Repr

/-- The result a decode shows: the empty sequence on a failure; the status is on no output (R191). -/
def Decoded.bytes : Decoded → ByteSeq
  | .ok dst => dst
  | .fail => []

/-! ### The receive buffer -/

/-- The byte at an index, if one was written; an unlisted index holds no value (10_state.md R35,
entry 3). -/
def Memory.read : List Host.Cell → Nat → Option Byte
  | [], _ => none
  | (j, b) :: m, i => if i = j then some b else Memory.read m i

/-- Write a byte at an index, keeping the indices strictly rising. -/
def Memory.write : List Host.Cell → Nat → Byte → List Host.Cell
  | [], i, b => [(i, b)]
  | (j, c) :: m, i, b =>
    if i < j then (i, b) :: (j, c) :: m
    else if i = j then (i, b) :: m
    else (j, c) :: Memory.write m i b

/-- The canonical form: indices strictly rising. (No index reads as a default value, so no entry can
equal one.) -/
def Memory.wf : List Host.Cell → Bool
  | [] => true
  | [_] => true
  | (i, _) :: (j, c) :: m => decide (i < j) && Memory.wf ((j, c) :: m)

/-- `MemRead(RXBUF, i, 1)`, with `0 <= i < CAPACITY` (00_scope.md R12). -/
def memRead (capacity : Nat) (m : List Host.Cell) (i : Nat) : Except Fault Byte :=
  if i < capacity then
    match Memory.read m i with
    | some b => .ok b
    | none => .error (.rxbufUnwritten i)
  else .error (.rxbufOutside i)

/-- `MemWrite(RXBUF, i, 1, b)` (R12). -/
def memWrite (capacity : Nat) (m : List Host.Cell) (i : Nat) (b : Byte) :
    Except Fault (List Host.Cell) :=
  if i < capacity then .ok (Memory.write m i b) else .error (.rxbufOutside i)

/-- `RXBUF[0 .. n)` in index order (R12, 42_reassembler.md R154). -/
def memReadRange (capacity : Nat) (m : List Host.Cell) : Nat → Except Fault ByteSeq
  | 0 => .ok []
  | n + 1 =>
    match memReadRange capacity m n with
    | .error f => .error f
    | .ok bs =>
      match memRead capacity m n with
      | .error f => .error f
      | .ok b => .ok (bs ++ [b])

/-- The unfinished frame `RXBUF[0 .. CURSOR)` (10_state.md R22, R23). -/
def State.frame (s : State) : Except Fault ByteSeq :=
  memReadRange s.cfg.capacity s.rxbuf s.cursor

/-! ### Registers and channels -/

/-- The clear of a marker event: `CURSOR <- 0`, `OVF <- 0`; the bytes of `RXBUF` stay and lose their
meaning (10_state.md R22, 60_exceptions.md R198). -/
def State.clear (s : State) : State := { s with cursor := 0, ovf := ovfAfterMarker }

/-- Store a byte's new buffer and advance the cursor (42_reassembler.md R152). -/
def State.stored (m : List Host.Cell) (s : State) : State :=
  { s with rxbuf := m, cursor := s.cursor + 1, ovf := ovfAfterByte true s.ovf }

/-- Drop a byte (42_reassembler.md R152). -/
def State.dropped (s : State) : State := { s with ovf := ovfAfterByte false s.ovf }

/-- `HND <- v` (42_reassembler.md R164). -/
def State.setHnd (v : Option Tag) (s : State) : State := { s with hnd := v }

/-- Return a result to the host (30_encoding.md R95). -/
def State.answer (r : Result) (s : State) : State := { s with results := s.results ++ [r] }

/-- `emit TX(b)` for each byte in order (00_scope.md R12, R14). -/
def State.emitTx (bytes : ByteSeq) (s : State) : State := { s with txq := s.txq ++ bytes }

/-- `emit PKT(hid, bytes)` on the packet output channel (00_scope.md R12, R14). -/
def State.emitPkt (hid : Tag) (bytes : ByteSeq) (s : State) : State :=
  { s with pkt := s.pkt ++ [{ hid := hid, bytes := bytes }] }

/-- Replace what has begun and not ended. -/
def State.withCalls (calls : List Activity) (s : State) : State := { s with calls := calls }

/-- Take the oldest byte of `RXQ` for an `RX_DRAIN` whose loop goes on afterwards
(42_reassembler.md R160). -/
def State.drainPop (rest : ByteSeq) (s : State) : State :=
  { s with rxq := rest, calls := .drain :: s.calls }

/-! ### The dispatch and the return from it -/

/-- What the handler of a tag does at every dispatch (30_encoding.md R99). DESIGN CHOICE (entry 4): a
tag that no entry names issues nothing, and where two entries name one tag, of which R99 does not say
which holds, the first of the list does. -/
def handlerEntry : List (Tag × HandlerRule) → Tag → HandlerRule
  | [], _ => .lines []
  | (h, rule) :: rest, hid => if hid = h then rule else handlerEntry rest hid

/-- The line a handler's line issues for a packet. -/
def HandlerLine.issued (bytes : ByteSeq) : HandlerLine → HostLine
  | .line l => l
  | .onPacket w => .op { word := w, data := bytes, arg := bytes.length }

/-- What a handler issues for a packet event, and the host's variables afterwards
(60_exceptions.md R203). -/
def HandlerRule.call (vars : Nat) (answered : List Result) (hid : Tag) (bytes : ByteSeq) :
    HandlerRule → List HostLine × Nat
  | .lines ls => (ls.map (HandlerLine.issued bytes), vars)
  | .free => Config.freeHandler vars answered hid bytes

/-- What the host issues at the dispatch of a packet event, and its variables afterwards: the next
reply, or what the tag's entry does once the replies are used up (42_reassembler.md R163,
60_exceptions.md R203, entries 4 and 27). -/
def State.handlerCall (hid : Tag) (bytes : ByteSeq) (s : State) : List HostLine × Nat :=
  match s.replies with
  | lines :: _ => (lines, s.hostVars)
  | [] => (handlerEntry s.handlers hid).call s.hostVars s.results hid bytes

/-- The lines the host issues at the dispatch of a packet event. -/
def State.handlerLines (hid : Tag) (bytes : ByteSeq) (s : State) : List HostLine :=
  (s.handlerCall hid bytes).1

/-- The host's variables that the dispatch of a packet event leaves, for whatever its lines issue to
read (entry 27). -/
def State.handlerVars (hid : Tag) (bytes : ByteSeq) (s : State) : Nat :=
  (s.handlerCall hid bytes).2

/-- Begin a handler's call: its lines become the innermost activity; a handler that issues nothing
returns at once (60_exceptions.md R198, R199, entry 6). DESIGN CHOICE (entry 27): R203 does not say when
the host's variables change, and they are written here, before the handler's lines are performed, so
that a dispatch nested in them already reads what this call leaves. -/
def State.callHandler (hid : Tag) (bytes : ByteSeq) (s : State) : State :=
  { s with
    replies := s.replies.tail
    hostVars := s.handlerVars hid bytes
    calls :=
      match s.handlerLines hid bytes with
      | [] => s.calls
      | line :: lines => .host (line :: lines) :: s.calls }

/-- The dispatch, the block's one event that calls into the host (60_exceptions.md R195, R198): the
event is emitted with the tag and a copy of the bytes, then the handler runs. -/
def State.dispatch (hid : Tag) (bytes : ByteSeq) (s : State) : State :=
  (s.emitPkt hid bytes).callHandler hid bytes

/-- The return of the host's innermost list: nothing is restored, and whatever was suspended goes on
(60_exceptions.md R199). -/
def State.hostReturn (outer : List Activity) (s : State) : State := s.withCalls outer

/-! ### What the machine turns to -/

/-- What the environment appends to `RXQ` before a step (00_scope.md R14, 42_reassembler.md R160,
entry 5). -/
def State.arrive (s : State) : State :=
  match s.arrivals with
  | [] => { s with rxq := s.rxq ++ s.arrivalsThen }
  | bytes :: later => { s with rxq := s.rxq ++ bytes, arrivals := later }

/-- The next thing a step does, with the state in which it is done. -/
inductive Turn where
  /-- No operation: the block is idle, the host's list is done, or an `ENV` line was carried out. -/
  | quiet (t : State)
  /-- The host issues this request. -/
  | issue (r : Request) (t : State)
  /-- The innermost suspended `RX_DRAIN` goes on. -/
  | drain (t : State)

/-- What comes next: the innermost activity decides (42_reassembler.md R163, 60_exceptions.md R199,
R210, 30_encoding.md R99). -/
def State.turn (s : State) : Turn :=
  match s.calls with
  | [] => .quiet s
  | .drain :: outer => .drain (s.withCalls outer)
  | .host [] :: outer => .quiet (s.hostReturn outer)
  | .host (.rxq bytes :: lines) :: outer =>
    .quiet { s with rxq := s.rxq ++ bytes, calls := .host lines :: outer }
  | .host (.op r :: lines) :: outer => .issue r (s.withCalls (.host lines :: outer))

/-- The host's list with one more line in front: the innermost list, or a list of its own when an
`RX_DRAIN` or nothing is innermost. -/
def State.issueNext (line : HostLine) (s : State) : State :=
  match s.calls with
  | .host lines :: outer => s.withCalls (.host (line :: lines) :: outer)
  | calls => s.withCalls (.host [line] :: calls)

end Sys2Proof.Machine
end

