-- ==== Sys2Proof/Machine/Cobs.lean ====
section
/-! DEFINITION. The COBS codec and the operations `COBS_ENC`, `COBS_DEC`, `COBS_MAX`
(40_cobs_codec.md). -/

namespace Sys2Proof.Machine

/-! ### Results of a codec operation -/

/-- Return a sequence computed from a sequence operand, both of which must fit in `LENW` bits
(30_encoding.md R93). -/
def answerSeq (src dst : ByteSeq) (s : State) : Answer :=
  if fits s.cfg.lenw src.length && fits s.cfg.lenw dst.length then .next (s.answer (.seq dst))
  else .refused .lengthDoesNotFit

/-- Return a number computed from a number operand, both of which must fit in `LENW` bits (R93). -/
def answerNat (n r : Nat) (s : State) : Answer :=
  if fits s.cfg.lenw n && fits s.cfg.lenw r then .next (s.answer (.nat r))
  else .refused .lengthDoesNotFit

/-! ### `COBS_ENC` -/

/-- The working registers of the encoder (10_state.md R30): `dst`, whose length is `write_index`,
`code_index` and the one-byte `code`. A reserved position of `dst` holds 0x00 until it is back-filled
(entry 19). -/
structure CobsEncRegs where
  dst : ByteSeq
  codeIndex : Nat
  code : Byte
deriving DecidableEq, Repr

/-- Position 0 is reserved for the first code byte (R111). -/
def cobsEncStart : CobsEncRegs := { dst := [0x00], codeIndex := 0, code := 1 }

/-- Back-fill the reserved position with a code byte and reserve the next one (R111). -/
def cobsEncClose (code : Byte) (r : CobsEncRegs) : CobsEncRegs :=
  { dst := r.dst.set r.codeIndex code ++ [0x00], codeIndex := r.dst.length, code := 1 }

/-- Copy a non-zero byte and count it (R111). -/
def cobsEncCopy (r : CobsEncRegs) (b : Byte) : CobsEncRegs :=
  { r with dst := r.dst ++ [b], code := r.code + 1 }

/-- The body of the encoder's loop for one source byte (R111). -/
def cobsEncByte (r : CobsEncRegs) (b : Byte) : CobsEncRegs :=
  if b = 0x00 then cobsEncClose r.code r
  else if (cobsEncCopy r b).code = 0xFF then cobsEncClose 0xFF (cobsEncCopy r b)
  else cobsEncCopy r b

/-- Back-fill the final reservation (R111). -/
def cobsEncFinish (r : CobsEncRegs) : ByteSeq := r.dst.set r.codeIndex r.code

/-- `COBS_ENC(src)` (R111). -/
def cobsEncode (src : ByteSeq) : ByteSeq := cobsEncFinish (src.foldl cobsEncByte cobsEncStart)

/-- `COBS_ENC src`. -/
def execCobsEnc (src : ByteSeq) (s : State) : Answer := answerSeq src (cobsEncode src) s

/-! ### `COBS_DEC` -/

/-- The failure test of R115 at a code byte `c` with `left` bytes from it on to the end of the input:
`c != 1` and `read_index + c > n`, where `left = n - read_index`. -/
def cobsDecFails (c : Byte) (left : Nat) : Bool := decide (c ≠ 1 ∧ left < c.toNat)

/-- The zero after a group with code byte `c` when `rest` is what follows the group (R114,
30_encoding.md R82). -/
def cobsDecZero (c : Byte) (rest : ByteSeq) : ByteSeq :=
  if c ≠ 0xFF ∧ rest ≠ [] then [0x00] else []

/-- The decoder's loop on the rest of the input, with the bytes appended so far (R114). A code byte 0
has `max(c - 1, 0) = 0` data bytes (R116). Each round takes at least the code byte, so as many rounds
as there are bytes are enough. -/
def cobsDecLoop : Nat → ByteSeq → ByteSeq → Decoded
  | 0, _, dst => .ok dst
  | _ + 1, [], dst => .ok dst
  | rounds + 1, c :: tail, dst =>
    if cobsDecFails c (tail.length + 1) then .fail
    else
      cobsDecLoop rounds (tail.drop (c.toNat - 1))
        (dst ++ tail.take (c.toNat - 1) ++ cobsDecZero c (tail.drop (c.toNat - 1)))

/-- `COBS_DEC(src)` with its status (R114). -/
def cobsDecode (src : ByteSeq) : Decoded := cobsDecLoop src.length src []

/-- `COBS_DEC src`. -/
def execCobsDec (src : ByteSeq) (s : State) : Answer := answerSeq src (cobsDecode src).bytes s

/-! ### `COBS_MAX` -/

/-- `COBS_MAX(n) = n + n/254 + 1` with the floor quotient (R118). -/
def cobsMaxSize (n : Nat) : Nat := n + n / 254 + 1

/-- `COBS_MAX n`. -/
def execCobsMax (n : Nat) (s : State) : Answer := answerNat n (cobsMaxSize n) s

end Sys2Proof.Machine
end

