-- ==== Sys2Proof/Machine/Slip.lean ====
section
/-! DEFINITION. The SLIP codec and the operations `SLIP_ENC`, `SLIP_DEC`, `SLIP_MAX`
(41_slip_codec.md). -/

namespace Sys2Proof.Machine

/-- `END` (00_scope.md R9). -/
def slipEnd : Byte := 0xC0

/-- `ESC` (R9). -/
def slipEsc : Byte := 0xDB

/-- `ESC_END` (R9). -/
def slipEscEnd : Byte := 0xDC

/-- `ESC_ESC` (R9; PRESUMED, entry 9: the spec takes 0xDD from general knowledge). -/
def slipEscEsc : Byte := 0xDD

/-- The symbol written for one payload byte (R132, 30_encoding.md R85). -/
def slipSymbol (b : Byte) : ByteSeq :=
  if b = slipEnd then [slipEsc, slipEscEnd]
  else if b = slipEsc then [slipEsc, slipEscEsc]
  else [b]

/-- `SLIP_ENC(src)`: the leading `END`, then one symbol per byte (R132). -/
def slipEncode (src : ByteSeq) : ByteSeq := slipEnd :: src.flatMap slipSymbol

/-- `SLIP_ENC src`. -/
def execSlipEnc (src : ByteSeq) (s : State) : Answer := answerSeq src (slipEncode src) s

/-- What the byte after an `ESC` writes: `END`, `ESC`, or nothing for an invalid continuation (R131,
R136). -/
def slipContinuation (nb : Byte) : ByteSeq :=
  if nb = slipEscEnd then [slipEnd]
  else if nb = slipEscEsc then [slipEsc]
  else []

/-- What a decode ends in when the input ends in a lone `ESC` (R137). -/
def slipTrailing (trail : SlipTrailEsc) (dst : ByteSeq) : Decoded :=
  match trail with
  | .drop => .ok dst
  | .zero => .fail

/-- The decoder's loop on the rest of the input, with the bytes appended so far (R135). -/
def slipDecLoop (trail : SlipTrailEsc) : ByteSeq → ByteSeq → Decoded
  | [], dst => .ok dst
  | [b], dst =>
    if b = slipEnd then .ok dst
    else if b = slipEsc then slipTrailing trail dst
    else .ok (dst ++ [b])
  | b :: nb :: rest, dst =>
    if b = slipEnd then slipDecLoop trail (nb :: rest) dst
    else if b = slipEsc then slipDecLoop trail rest (dst ++ slipContinuation nb)
    else slipDecLoop trail (nb :: rest) (dst ++ [b])

/-- `SLIP_DEC(src)` with its status (R135). -/
def slipDecode (trail : SlipTrailEsc) (src : ByteSeq) : Decoded := slipDecLoop trail src []

/-- `SLIP_DEC src`. -/
def execSlipDec (src : ByteSeq) (s : State) : Answer :=
  answerSeq src (slipDecode s.cfg.slipTrailEsc src).bytes s

/-- `SLIP_MAX(n) = 2*n + 2` (R140). -/
def slipMaxSize (n : Nat) : Nat := 2 * n + 2

/-- `SLIP_MAX n`. -/
def execSlipMax (n : Nat) (s : State) : Answer := answerNat n (slipMaxSize n) s

end Sys2Proof.Machine
end

