-- ==== Sys2Proof/Machine/Framer.lean ====
section
/-! DEFINITION. The Framer: `TX_SEND` (43_framer.md). -/

namespace Sys2Proof.Machine

/-- `ENCODE`, the encode of the codec that `CODEC` names (R180). -/
def encodePayload (c : Config) (p : ByteSeq) : ByteSeq :=
  match c.codec with
  | .cobs => cobsEncode p
  | .slip => slipEncode p

/-- What `TX_SEND p` puts on the wire when it is no no-op: the encoded bytes, then the marker (R180,
30_encoding.md R86). -/
def wireBytes (c : Config) (p : ByteSeq) : ByteSeq := encodePayload c p ++ [c.marker]

/-- `TX_SEND p`: nothing for an empty payload or without a sink (R181), else the wire bytes; a length
that does not fit a finite `LENW` is refused (30_encoding.md R93, U13). -/
def execTxSend (p : ByteSeq) (s : State) : Answer :=
  if !fits s.cfg.lenw p.length then .refused .lengthDoesNotFit
  else if p.isEmpty || !s.cfg.sinkEn then .next s
  else if fits s.cfg.lenw (encodePayload s.cfg p).length then .next (s.emitTx (wireBytes s.cfg p))
  else .refused .lengthDoesNotFit

end Sys2Proof.Machine
end

