-- ==== Sys2Proof/Machine/Reassembler.lean ====
section
/-! DEFINITION. The Reassembler: `RX_BYTE`, `RX_DRAIN`, `RX_OVF`, `SET_HANDLER`
(42_reassembler.md). -/

namespace Sys2Proof.Machine

/-- `DECODE`, the decode of the codec that `CODEC` names (R150). -/
def decodeFrame (c : Config) (frame : ByteSeq) : Decoded :=
  match c.codec with
  | .cobs => cobsDecode frame
  | .slip => slipDecode c.slipTrailEsc frame

/-- A byte that is not the marker: stored while `CURSOR + 1 < CAPACITY`, else dropped with `OVF` set
(R152). -/
def rxStore (b : Byte) (s : State) : Answer :=
  if hasRoom s.cursor s.cfg.capacity then
    match memWrite s.cfg.capacity s.rxbuf s.cursor b with
    | .error f => .fault f
    | .ok m => .next (s.stored m)
  else .next s.dropped

/-- A marker event: with a handler, decode what is buffered, clear, then dispatch; without one, clear
(R153, R159). -/
def rxMarker (s : State) : Answer :=
  match s.hnd with
  | none => .next s.clear
  | some hid =>
    match s.frame with
    | .error f => .fault f
    | .ok frame => .next (s.clear.dispatch hid (decodeFrame s.cfg frame).bytes)

/-- The transition of one received byte, `consumeByte(b)` (R151). -/
def rxConsume (b : Byte) (s : State) : Answer :=
  if b = s.cfg.marker then rxMarker s else rxStore b s

/-- `RX_BYTE b`. -/
def execRxByte (b : Byte) (s : State) : Answer := rxConsume b s

/-- `RX_DRAIN` up to its next byte: the test of `RXQ`, and when it is not empty one byte consumed
with the loop suspended around whatever the byte's dispatch issues (R160, R163). -/
def execRxDrain (s : State) : Answer :=
  match s.rxq with
  | [] => .next s
  | b :: rest => rxConsume b (s.drainPop rest)

/-- `RX_OVF`: the value of `OVF`, which the query does not change (R162). -/
def execRxOvf (s : State) : Answer := .next (s.answer (.bool s.ovf))

/-- `SET_HANDLER v`: `HND <- v` (R164). -/
def execSetHandler (v : Option Tag) (s : State) : Answer := .next (s.setHnd v)

end Sys2Proof.Machine
end

