-- ==== Sys2Proof/Machine/Reset.lean ====
section
/-! DEFINITION. Construction of an instance and the operation `RESET` (70_reset_and_hazards.md R220,
00_scope.md R10). -/

namespace Sys2Proof.Machine

/-- Build an instance; a configuration that is not well formed is refused (R10). -/
def construct (c : Config) : Answer :=
  if c.wf then .next (State.resetWith c) else .refused .illFormedConfig

/-- `RESET`: `CURSOR <- 0`, `OVF <- 0`, `HND <- none`, and `RXBUF` unspecified, so that no byte of it
counts as written (R220). The configuration, `RXQ`, `TXQ` and `PKT` are not touched, and what the
host has begun goes on (entry 12). -/
def execReset (s : State) : Answer :=
  .next { s with rxbuf := [], cursor := 0, ovf := false, hnd := none }

end Sys2Proof.Machine
end

