-- ==== Sys2Proof/Machine/Dispatch.lean ====
section
/-! DEFINITION. One arm per operation (30_encoding.md R92). -/

namespace Sys2Proof.Machine

def exec (i : Instr) (s : State) : Host.Outcome State Fault Refusal :=
  match i with
  | .cobsEnc src => Sys2Proof.Machine.execCobsEnc src s
  | .cobsDec src => Sys2Proof.Machine.execCobsDec src s
  | .cobsMax n => Sys2Proof.Machine.execCobsMax n s
  | .slipEnc src => Sys2Proof.Machine.execSlipEnc src s
  | .slipDec src => Sys2Proof.Machine.execSlipDec src s
  | .slipMax n => Sys2Proof.Machine.execSlipMax n s
  | .rxByte b => Sys2Proof.Machine.execRxByte b s
  | .rxDrain => Sys2Proof.Machine.execRxDrain s
  | .rxOvf => Sys2Proof.Machine.execRxOvf s
  | .setHandler v => Sys2Proof.Machine.execSetHandler v s
  | .txSend p => Sys2Proof.Machine.execTxSend p s
  | .reset => Sys2Proof.Machine.execReset s

end Sys2Proof.Machine
end

