-- ==== Sys2Proof/Machine/Step.lean ====
section
/-! DEFINITION. One step of the machine: what the environment appends, then the innermost activity's
next transition (42_reassembler.md R160, R163). The block fetches nothing (10_state.md R21): the
operation comes from the host's list. -/

namespace Sys2Proof.Machine

/-- Carry out a turn: nothing, an issued operation, or the next round of an `RX_DRAIN`. An illegal
word is refused (30_encoding.md R96). -/
def runTurn : Turn → Host.Outcome State Fault Refusal
  | .quiet t => .next t
  | .issue r t =>
    match decode r with
    | .ok i => exec i t
    | .error why => .refused (.illegalWord why)
  | .drain t => exec .rxDrain t

/-- One step. An instance with an ill-formed configuration does not exist, and its step is refused
(00_scope.md R10, entry 14). -/
def step (s : State) : Host.Outcome State Fault Refusal :=
  if s.cfg.wf then runTurn s.arrive.turn else .refused .illFormedConfig

/-- The state in which the host issues the word `w` next, with nothing on the operand channels
(entries 7 and 23). -/
def State.withFetchWord (s : State) (nbits w : Nat) : State :=
  s.issueNext (.op (tableRequest nbits w))

end Sys2Proof.Machine
end

