-- ==== Sys2Proof/Machine/Text.lean ====
section
/-! DEFINITION. The textual spelling of operations (30_encoding.md R98), as lists of characters. -/

namespace Sys2Proof.Machine

/-- One hexadecimal digit, in capitals as spec/ prints them. -/
def hexDigit (n : Nat) : Char := "0123456789ABCDEF".toList.getD n '?'

/-- A byte as two hexadecimal digits (00_scope.md R11). -/
def hexByte (b : Byte) : List Char := [hexDigit (b.toNat / 16), hexDigit (b.toNat % 16)]

/-- A sequence in brackets, bytes in hexadecimal separated by one space (R11, R98). -/
def seqText (bytes : ByteSeq) : List Char :=
  ['['] ++ ((bytes.map hexByte).intersperse [' ']).flatten ++ [']']

/-- A natural number in decimal (R98). -/
def natText (n : Nat) : List Char := Nat.toDigits 10 n

/-- The mnemonic of an operation (R92). -/
def mnemonic : Instr → List Char
  | .cobsEnc _ => "COBS_ENC".toList
  | .cobsDec _ => "COBS_DEC".toList
  | .cobsMax _ => "COBS_MAX".toList
  | .slipEnc _ => "SLIP_ENC".toList
  | .slipDec _ => "SLIP_DEC".toList
  | .slipMax _ => "SLIP_MAX".toList
  | .rxByte _ => "RX_BYTE".toList
  | .rxDrain => "RX_DRAIN".toList
  | .rxOvf => "RX_OVF".toList
  | .setHandler _ => "SET_HANDLER".toList
  | .txSend _ => "TX_SEND".toList
  | .reset => "RESET".toList

/-- The operand of an operation as text, after one space; nothing in format N (R98). -/
def operandText : Instr → List Char
  | .cobsEnc src => ' ' :: seqText src
  | .cobsDec src => ' ' :: seqText src
  | .cobsMax n => ' ' :: natText n
  | .slipEnc src => ' ' :: seqText src
  | .slipDec src => ' ' :: seqText src
  | .slipMax n => ' ' :: natText n
  | .rxByte b => " 0x".toList ++ hexByte b
  | .rxDrain => []
  | .rxOvf => []
  | .setHandler none => " none".toList
  | .setHandler (some hid) => " some(".toList ++ natText hid.toNat ++ [')']
  | .txSend p => ' ' :: seqText p
  | .reset => []

/-- The textual spelling of an operation (R98). -/
def spelling (i : Instr) : List Char := mnemonic i ++ operandText i

end Sys2Proof.Machine
end

