-- ==== Sys2Proof/Machine/Instances.lean ====
section
/-! DEFINITION. Several instances: a product of single instances with the interleaving free
(60_exceptions.md R208, D23). -/

namespace Sys2Proof.Machine

/-- One step of instance `k`; a number that names no instance changes nothing. DESIGN CHOICE (entries
18 and 21): a refusal or a fault of the one instance is the outcome of the product's step, so that it
ends the run of the others too, of which R208 says nothing. -/
def stepInstance (k : Nat) (instances : List State) :
    Host.Outcome (List State) Fault Refusal :=
  match instances[k]? with
  | none => .next instances
  | some s =>
    match step s with
    | .next t => .next (instances.set k t)
    | .fault f => .fault f
    | .refused r => .refused r

end Sys2Proof.Machine
end

