-- ==== Sys2Proof/Machine/Program.lean ====
section
/-! DEFINITION. Test programs and pseudo-operations (30_encoding.md R99, R100), and feeding bytes one
`RX_BYTE` after another. -/

namespace Sys2Proof.Machine

/-- A program: the `CONFIG` line, the `ENV HANDLER` lines, and the list of operations and
`ENV RXQ` lines (R99). -/
structure Program where
  cfg : Config
  handlers : List (Tag × List HostLine)
  lines : List HostLine
deriving DecidableEq, Repr

/-- Build the program's instance, write down its handlers and place its list in front of the block
(R99, entry 7). -/
def Program.load (p : Program) : Answer :=
  match construct p.cfg with
  | .next s => .next { s with
      handlers := p.handlers.map (fun e => (e.1, .lines (e.2.map .line)))
      calls := [.host p.lines] }
  | o => o

/-- The line that issues an operation. -/
def opLine (i : Instr) : HostLine := .op (encode i)

/-- `FEED bytes` (R100). -/
def feedLines (bytes : ByteSeq) : List HostLine := bytes.map (fun b => opLine (.rxByte b))

/-- `FEED_DRAIN bytes` (R100). -/
def feedDrainLines (bytes : ByteSeq) : List HostLine := [.rxq bytes, opLine .rxDrain]

/-- `CLR_HANDLER` (R100). -/
def clrHandlerLines : List HostLine := [opLine (.setHandler none)]

/-- `ENC s`, by the program's `CODEC` (R100). -/
def encLines (c : Codec) (src : ByteSeq) : List HostLine :=
  match c with
  | .cobs => [opLine (.cobsEnc src)]
  | .slip => [opLine (.slipEnc src)]

/-- `DEC s` (R100). -/
def decLines (c : Codec) (src : ByteSeq) : List HostLine :=
  match c with
  | .cobs => [opLine (.cobsDec src)]
  | .slip => [opLine (.slipDec src)]

/-- `MAX n` (R100). -/
def maxLines (c : Codec) (n : Nat) : List HostLine :=
  match c with
  | .cobs => [opLine (.cobsMax n)]
  | .slip => [opLine (.slipMax n)]

/-- The operations `RX_BYTE b0`, `RX_BYTE b1`, ... performed one straight after the other. -/
def feed : ByteSeq → State → Answer
  | [], s => .next s
  | b :: rest, s =>
    match exec (.rxByte b) s with
    | .next t => feed rest t
    | .fault f => .fault f
    | .refused r => .refused r

end Sys2Proof.Machine
end

