-- ==== Sys2Proof/Machine/WireFormat.lean ====
section
/-! DEFINITION. The COBS wire format as the spec describes it, apart from the algorithms that write
and read it (30_encoding.md R80 to R83). A group is given by its data bytes; its code byte is their
number plus one. -/

namespace Sys2Proof.Machine

/-- The bytes of one group: the code byte, then the data bytes (R80, R81). -/
def groupBytes (data : ByteSeq) : ByteSeq := BitVec.ofNat 8 (data.length + 1) :: data

/-- The bytes of a block, group after group (R80). -/
def blockBytes (groups : List ByteSeq) : ByteSeq := groups.flatMap groupBytes

/-- The payload a block stands for: the data of its groups, with one zero between two groups unless
the first of the two holds 254 bytes, code 0xFF (R82). -/
def blockPayload : List ByteSeq → ByteSeq
  | [] => []
  | [g] => g
  | g :: h :: rest => g ++ (if g.length = 254 then [] else [0x00]) ++ blockPayload (h :: rest)

/-- The groups the encoder makes of a payload, with the data of the group begun: a zero closes the
group, 254 data bytes close it at once, and the end of the payload closes the last (R83). -/
def payloadGroupsFrom (group : ByteSeq) : ByteSeq → List ByteSeq
  | [] => [group]
  | b :: rest =>
    if b = 0x00 then group :: payloadGroupsFrom [] rest
    else if group.length + 1 = 254 then (group ++ [b]) :: payloadGroupsFrom [] rest
    else payloadGroupsFrom (group ++ [b]) rest

/-- The groups the encoder makes of a payload (R83). -/
def payloadGroups (payload : ByteSeq) : List ByteSeq := payloadGroupsFrom [] payload

/-- How many of the groups are full, with code 0xFF (40_cobs_codec.md R112 (b): the `k` of the
length). -/
def fullGroups (payload : ByteSeq) : Nat :=
  ((payloadGroups payload).filter (fun g => decide (g.length = 254))).length

/-- How many payload bytes SLIP escapes (41_slip_codec.md R133 (b): the `e` of the length). -/
def slipEscapes (payload : ByteSeq) : Nat :=
  (payload.filter (fun b => decide (b = slipEnd ∨ b = slipEsc))).length

end Sys2Proof.Machine
end

