-- ==== Sys2Proof/Safety.lean ====
section
/-! DEFINITION. What a good state is (10_state.md R27), and the words the statements use about runs
and about the host's and the environment's behaviour. -/

namespace Sys2Proof.Machine

/-- The invariant of the reachable states (10_state.md R27), with the well-formed configuration of
00_scope.md R10 and the canonical form of the buffer. -/
structure State.Inv (s : State) : Prop where
  /-- The instance was built from a well-formed configuration (R10). -/
  cfg_wf : s.cfg.wf = true
  /-- The written indices of `RXBUF` are strictly rising. -/
  rxbuf_wf : Memory.wf s.rxbuf = true
  /-- (c) `RXBUF[CAPACITY - 1]`, and no index beyond it, is ever written. -/
  last_unwritten : ∀ c ∈ s.rxbuf, c.1 + 1 < s.cfg.capacity
  /-- (a) `CURSOR <= CAPACITY - 1`. -/
  cursor_le : s.cursor + 1 ≤ s.cfg.capacity
  /-- (b) `OVF = 1` implies `CURSOR = CAPACITY - 1`. -/
  ovf_full : s.ovf = true → s.cursor + 1 = s.cfg.capacity
  /-- (d), (e) Every byte of `RXBUF[0..CURSOR)` was written, and none is the marker. -/
  frame_written : ∀ i, i < s.cursor → ∃ b, Memory.read s.rxbuf i = some b ∧ b ≠ s.cfg.marker

/-- The cleared state of 10_state.md R25. -/
def State.Cleared (s : State) : Prop := s.cursor = 0 ∧ s.ovf = false

/-- The handler issues no operation at any dispatch (42_reassembler.md R160). -/
def State.Quiet (s : State) : Prop :=
  (∀ lines ∈ s.replies, lines = []) ∧ (∀ e ∈ s.handlers, e.2 = .lines [])

/-- The environment appends nothing to `RXQ` (42_reassembler.md R160). -/
def State.NothingArrives (s : State) : Prop := s.arrivals = [] ∧ s.arrivalsThen = []

/-- A length is less than `2^LENW` when `LENW` is finite (30_encoding.md R93). -/
def LengthFits (c : Config) (n : Nat) : Prop := ∀ w, c.lenw = some w → n < 2 ^ w

/-- A decode's result with bytes put in front; a failure stays one. -/
def Decoded.prepend (before : ByteSeq) : Decoded → Decoded
  | .ok dst => .ok (before ++ dst)
  | .fail => .fail

/-- `n` steps, stopping at the first fault or refusal. -/
def steps : Nat → State → Answer
  | 0, s => .next s
  | n + 1, s =>
    match step s with
    | .next t => steps n t
    | .fault f => .fault f
    | .refused r => .refused r

end Sys2Proof.Machine
end

