-- ==== Sys2Proof/Certificates/Slice0/Obligations.lean ====
section
/-! DEFINITION. The statements for the provers, one `Prop` each. -/

open Sys2Proof Sys2Proof.Machine

/-! ### Reset, construction, configuration -/

/-- 10_state.md R35: the state after construction. The empty channels and the plain `State.reset`'s
choice of COBS are the model's (entries 1 and 16). -/
def Obligations.ConstructionGivesTheClearedState : Prop :=
  ∀ c : Config,
    (State.resetWith c).cursor = 0 ∧ (State.resetWith c).ovf = false ∧
    (State.resetWith c).hnd = none ∧ (∀ i, Memory.read (State.resetWith c).rxbuf i = none) ∧
    (State.resetWith c).cfg = c ∧ (State.resetWith c).rxq = [] ∧ (State.resetWith c).txq = [] ∧
    (State.resetWith c).pkt = [] ∧ State.reset = State.resetWith (Config.ofCodec .cobs)

/-- 00_scope.md R10: which configurations an instance is built from. -/
def Obligations.IllFormedConfigurationIsNotBuilt : Prop :=
  ∀ c : Config,
    ((2 ≤ c.capacity ∧ ∀ w, c.lenw = some w → c.capacity < 2 ^ w) →
      construct c = .next (State.resetWith c)) ∧
    (¬ (2 ≤ c.capacity ∧ ∀ w, c.lenw = some w → c.capacity < 2 ^ w) →
      construct c = .refused .illFormedConfig)

/-- 10_state.md R27: the invariant holds right after construction, and at the plain reset. -/
def Obligations.ConstructionEstablishesTheInvariant : Prop :=
  State.reset.Inv ∧ ∀ c : Config, c.wf = true → (State.resetWith c).Inv

/-- 30_encoding.md R97: no step writes the configuration. -/
def Obligations.ConfigurationIsNeverWritten : Prop :=
  ∀ s t : State, step s = .next t → t.cfg = s.cfg

/-! ### Operation words -/

/-- 30_encoding.md R93, R94: words written out from the tables, with what the channels carry. -/
def Obligations.WordsOfTheTableDecode : Prop :=
  ∀ (data : ByteSeq) (arg : Nat),
    decode ⟨0x1000, data, arg⟩ = .ok (.cobsEnc data) ∧
    decode ⟨0x2000, data, arg⟩ = .ok (.cobsDec data) ∧
    decode ⟨0x3000, data, arg⟩ = .ok (.cobsMax arg) ∧
    decode ⟨0x4000, data, arg⟩ = .ok (.slipEnc data) ∧
    decode ⟨0x5000, data, arg⟩ = .ok (.slipDec data) ∧
    decode ⟨0x6000, data, arg⟩ = .ok (.slipMax arg) ∧
    decode ⟨0x8011, data, arg⟩ = .ok (.rxByte 0x11) ∧
    decode ⟨0x9000, data, arg⟩ = .ok .rxDrain ∧
    decode ⟨0xA000, data, arg⟩ = .ok .rxOvf ∧
    decode ⟨0xB0FF, data, arg⟩ = .ok (.setHandler (some 127)) ∧
    decode ⟨0xB080, data, arg⟩ = .ok (.setHandler (some 0)) ∧
    decode ⟨0xB000, data, arg⟩ = .ok (.setHandler none) ∧
    decode ⟨0xC000, data, arg⟩ = .ok (.txSend data) ∧
    decode ⟨0xF000, data, arg⟩ = .ok .reset

/-- 30_encoding.md R96: a word is illegal exactly in the four cases of the rule, and an illegal word
is refused. -/
def Obligations.IllegalWordsAreRefused : Prop :=
  ∀ (w : Word16) (data : ByteSeq) (arg : Nat),
    ((∃ why, decode ⟨w, data, arg⟩ = .error why) ↔
      (w.toNat / 4096 = 0x0 ∨ w.toNat / 4096 = 0x7 ∨ w.toNat / 4096 = 0xD ∨ w.toNat / 4096 = 0xE ∨
        w.toNat / 256 % 16 ≠ 0 ∨
        (w.toNat % 256 ≠ 0 ∧ w.toNat / 4096 ≠ 0x8 ∧ w.toNat / 4096 ≠ 0xB) ∨
        (w.toNat / 4096 = 0xB ∧ w.toNat % 256 / 128 = 0 ∧ w.toNat % 128 ≠ 0))) ∧
    (∀ why, decode ⟨w, data, arg⟩ = .error why →
      ∀ (s : State) (lines : List HostLine) (outer : List Activity), s.cfg.wf = true →
        s.calls = .host (.op ⟨w, data, arg⟩ :: lines) :: outer →
        step s = .refused (.illegalWord why))

/-- 30_encoding.md R92 to R94: decoding what the encoder writes gives the operation back, with every
operand. -/
def Obligations.DecodeOfEncodeIsTheOperation : Prop := ∀ i : Instr, decode (encode i) = .ok i

/-- 30_encoding.md R92 to R94: the operation a word decodes to is encoded as that word, so each
operation has one word. -/
def Obligations.EncodeOfDecodeIsTheWord : Prop :=
  ∀ (r : Request) (i : Instr), decode r = .ok i → (encode i).word = r.word

/-! ### The step -/

/-- 10_state.md R21, 42_reassembler.md R163: an issued request is decoded and its operation performed,
after what the environment appends, with the rest of the host's list still to come. -/
def Obligations.StepRunsTheIssuedOperation : Prop :=
  ∀ (s : State) (r : Request) (i : Instr) (lines : List HostLine) (outer : List Activity),
    s.cfg.wf = true → s.calls = .host (.op r :: lines) :: outer → decode r = .ok i →
    step s = exec i (s.arrive.withCalls (.host lines :: outer))

/-- 42_reassembler.md R160, 60_exceptions.md R199: a suspended `RX_DRAIN` goes on with its next
test. -/
def Obligations.StepGoesOnWithASuspendedDrain : Prop :=
  ∀ (s : State) (outer : List Activity), s.cfg.wf = true → s.calls = .drain :: outer →
    step s = exec .rxDrain (s.arrive.withCalls outer)

/-- 60_exceptions.md R199, R210, 30_encoding.md R99: an idle block, a host list that is done, and an
`ENV RXQ` line perform no operation. -/
def Obligations.StepWithoutAnOperation : Prop :=
  ∀ (s : State), s.cfg.wf = true →
    (s.calls = [] → step s = .next s.arrive) ∧
    (∀ outer, s.calls = .host [] :: outer → step s = .next (s.arrive.withCalls outer)) ∧
    (∀ bytes lines outer, s.calls = .host (.rxq bytes :: lines) :: outer →
      step s = .next { s.arrive with rxq := s.arrive.rxq ++ bytes, calls := .host lines :: outer })

/-- 00_scope.md R14: what arrives goes to the tail of `RXQ` and changes nothing else of the block or
of its other channels. -/
def Obligations.ArrivalsJoinTheTailOfTheSource : Prop :=
  ∀ s : State,
    (∀ bytes later, s.arrivals = bytes :: later →
      s.arrive = { s with rxq := s.rxq ++ bytes, arrivals := later }) ∧
    (s.arrivals = [] → s.arrive = { s with rxq := s.rxq ++ s.arrivalsThen })

/-- The very next step after `withFetchWord` performs the word's operation (entry 7). -/
def Obligations.FetchWordRunsNext : Prop :=
  ∀ (s : State) (w : Nat) (i : Instr), s.cfg.wf = true → decodeTableWord 16 w = some i →
    step (s.withFetchWord 16 w) = exec i (s.arrive.withCalls
      (match s.calls with
        | .host lines :: outer => .host lines :: outer
        | calls => .host [] :: calls))

/-! ### The COBS codec -/

/-- 30_encoding.md R80, R83 and 40_cobs_codec.md R111: the back-filling encoder writes the block of the
groups that the wire format describes. -/
def Obligations.CobsEncoderWritesTheWireFormat : Prop :=
  ∀ src : ByteSeq, cobsEncode src = blockBytes (payloadGroups src)

/-- 30_encoding.md R81, R82 and 40_cobs_codec.md R114: the decoder reads every block of whole groups,
not only the encoder's. -/
def Obligations.CobsDecoderReadsTheWireFormat : Prop :=
  ∀ groups : List ByteSeq, (∀ g ∈ groups, g.length ≤ 254) →
    cobsDecode (blockBytes groups) = .ok (blockPayload groups)

/-- 40_cobs_codec.md R119: the round trip, that its converse fails, and that encoder output is never
empty and decodes to the empty sequence only for `[01]`. -/
def Obligations.CobsDecodeInvertsEncode : Prop :=
  (∀ s : ByteSeq, cobsDecode (cobsEncode s) = .ok s) ∧
  (∀ d : ByteSeq, d.length = 254 → 0x00 ∉ d →
    cobsDecode (0xFF :: d) = .ok d ∧ cobsEncode d = 0xFF :: (d ++ [0x01])) ∧
  (cobsDecode [0x00] = .ok [] ∧ cobsEncode [] = [0x01]) ∧
  (∀ s : ByteSeq, cobsEncode s ≠ [] ∧ (cobsDecode (cobsEncode s) = .ok [] → cobsEncode s = [0x01]))

/-- 40_cobs_codec.md R112 (a): the encoder's output holds no zero byte. -/
def Obligations.CobsEncodedBlockIsZeroFree : Prop :=
  ∀ src : ByteSeq, (0x00 : Byte) ∉ cobsEncode src

/-- 40_cobs_codec.md R112 (b), (c): the length, its bound, and that the bound is met by zero-free
payloads of a multiple of 254 bytes. -/
def Obligations.CobsEncodedLength : Prop :=
  ∀ src : ByteSeq,
    (cobsEncode src).length = src.length + 1 + fullGroups src ∧
    (cobsEncode src).length ≤ src.length + src.length / 254 + 1 ∧
    (∀ m, src.length = 254 * m → 0x00 ∉ src → (cobsEncode src).length = 254 * m + m + 1)

/-- 40_cobs_codec.md R115: after any whole groups, a code byte whose group passes the end of the input
makes the decode fail, and what was decoded before is discarded. -/
def Obligations.CobsDecodeRejectsATruncatedGroup : Prop :=
  ∀ (groups : List ByteSeq) (c : Byte) (tail : ByteSeq), (∀ g ∈ groups, g.length ≤ 254) →
    c ≠ 1 → tail.length + 1 < c.toNat →
    cobsDecode (blockBytes groups ++ c :: tail) = .fail ∧
    (cobsDecode (blockBytes groups ++ c :: tail)).bytes = []

/-- 40_cobs_codec.md R116, D9 (entry 10): after any whole groups, a code byte 0x00 acts as 0x01. -/
def Obligations.CobsCodeZeroActsAsCodeOne : Prop :=
  ∀ (groups : List ByteSeq) (tail : ByteSeq), (∀ g ∈ groups, g.length ≤ 254) →
    cobsDecode (blockBytes groups ++ 0x00 :: tail) = cobsDecode (blockBytes groups ++ 0x01 :: tail)

/-- 40_cobs_codec.md R117 (a): the decoded output of a non-empty input is shorter than the input. -/
def Obligations.CobsDecodedIsShorter : Prop :=
  ∀ src : ByteSeq, src ≠ [] → (cobsDecode src).bytes.length + 1 ≤ src.length

/-- 40_cobs_codec.md R111, R114: `COBS_ENC` and `COBS_DEC` answer their sequence and write nothing
else, whenever the operand, and for the encoder the block, fits. -/
def Obligations.CobsEncAndDecAnswer : Prop :=
  ∀ (src : ByteSeq) (s : State), LengthFits s.cfg src.length →
    (LengthFits s.cfg (cobsEncode src).length →
      exec (.cobsEnc src) s = .next { s with results := s.results ++ [.seq (cobsEncode src)] }) ∧
    exec (.cobsDec src) s = .next { s with results := s.results ++ [.seq (cobsDecode src).bytes] }

/-- 40_cobs_codec.md R118: `COBS_MAX n`, word 0x3000, answers `n + n/254 + 1`, exactly, or is refused when that does
not fit a finite `LENW`; it is the largest length of `COBS_ENC` on `n` bytes. -/
def Obligations.CobsMaxAnswersTheWorstCase : Prop :=
  ∀ (n : Nat),
    (∀ data, decode ⟨0x3000, data, n⟩ = .ok (.cobsMax n)) ∧
    (∀ s : State, LengthFits s.cfg (n + n / 254 + 1) →
      exec (.cobsMax n) s = .next { s with results := s.results ++ [.nat (n + n / 254 + 1)] }) ∧
    (∀ (s : State) (w : Nat), s.cfg.lenw = some w → 2 ^ w ≤ n + n / 254 + 1 →
      exec (.cobsMax n) s = .refused .lengthDoesNotFit) ∧
    (∀ src : ByteSeq, src.length = n → (cobsEncode src).length ≤ n + n / 254 + 1) ∧
    (∃ src : ByteSeq, src.length = n ∧ (cobsEncode src).length = n + n / 254 + 1)

/-! ### The SLIP codec -/

/-- 41_slip_codec.md R133: the leading `END` is the only one, the length, its bound, and that every
`ESC` begins a valid pair. (That `ESC_ESC` is 0xDD is PRESUMED, entry 9.) -/
def Obligations.SlipEncodedFrameShape : Prop :=
  ∀ src : ByteSeq,
    (∃ rest, slipEncode src = 0xC0 :: rest ∧ (0xC0 : Byte) ∉ rest) ∧
    (slipEncode src).length = 1 + src.length + slipEscapes src ∧
    (slipEncode src).length ≤ 2 * src.length + 1 ∧
    (∀ before after, slipEncode src = before ++ 0xDB :: after →
      ∃ nb rest, after = nb :: rest ∧ (nb = 0xDC ∨ nb = 0xDD))

/-- 41_slip_codec.md R141: the round trip under either value of `SLIP_TRAIL_ESC`, and the example that
the converse fails. -/
def Obligations.SlipDecodeInvertsEncode : Prop :=
  (∀ (trail : SlipTrailEsc) (s : ByteSeq), slipDecode trail (slipEncode s) = .ok s) ∧
  (∀ trail : SlipTrailEsc, slipDecode trail [0x01, 0xC0, 0x02] = .ok [0x01, 0x02]) ∧
  slipEncode [0x01, 0x02] = [0xC0, 0x01, 0x02]

/-- 41_slip_codec.md R136: after a prefix with no pending `ESC`, an `ESC` with an invalid continuation
is dropped with it, whatever the continuation is, and decoding goes on after the pair. -/
def Obligations.SlipDecodeDropsAnInvalidPair : Prop :=
  (∀ (trail : SlipTrailEsc) (before decoded : ByteSeq) (nb : Byte) (after : ByteSeq),
    slipDecode .zero before = .ok decoded → nb ≠ slipEscEnd → nb ≠ slipEscEsc →
    slipDecode trail (before ++ slipEsc :: nb :: after) =
      (slipDecode trail after).prepend decoded) ∧
  (∀ trail : SlipTrailEsc, slipDecode trail [0xDB, 0xC0, 0x07] = .ok [0x07] ∧
    slipDecode trail [0xDB, 0xDB, 0xDC] = .ok [0xDC])

/-- 41_slip_codec.md R137: a trailing `ESC` is dropped under `DROP` and makes the decode fail under
`ZERO`. Both outcomes are the spec's own decision D10, where its source leaves the result open (entry
11, DESIGN CHOICE). -/
def Obligations.SlipTrailingEscFollowsTheParameter : Prop :=
  ∀ before decoded : ByteSeq, slipDecode .zero before = .ok decoded →
    slipDecode .drop (before ++ [slipEsc]) = .ok decoded ∧
    slipDecode .zero (before ++ [slipEsc]) = .fail ∧
    (slipDecode .zero (before ++ [slipEsc])).bytes = []

/-- 41_slip_codec.md R138: an `END` anywhere but after an `ESC` writes nothing, and both sides are
decoded into one result. -/
def Obligations.SlipDecodeSkipsEveryEnd : Prop :=
  (∀ (trail : SlipTrailEsc) (before decoded after : ByteSeq), slipDecode .zero before = .ok decoded →
    slipDecode trail (before ++ slipEnd :: after) = (slipDecode trail after).prepend decoded) ∧
  (∀ trail : SlipTrailEsc, slipDecode trail [0x01, 0xC0, 0x02] = .ok [0x01, 0x02] ∧
    slipDecode trail [0xC0, 0xC0] = .ok [] ∧ slipDecode trail [0xDB, 0xC0, 0x07] = .ok [0x07])

/-- 41_slip_codec.md R139 (a): the decoded output is never longer than the input. -/
def Obligations.SlipDecodedIsNoLonger : Prop :=
  ∀ (trail : SlipTrailEsc) (src : ByteSeq), (slipDecode trail src).bytes.length ≤ src.length

/-- 41_slip_codec.md R132, R135: `SLIP_ENC` and `SLIP_DEC` answer their sequence and write nothing
else, whenever the operand, and for the encoder the frame, fits. -/
def Obligations.SlipEncAndDecAnswer : Prop :=
  ∀ (src : ByteSeq) (s : State), LengthFits s.cfg src.length →
    (LengthFits s.cfg (slipEncode src).length →
      exec (.slipEnc src) s = .next { s with results := s.results ++ [.seq (slipEncode src)] }) ∧
    exec (.slipDec src) s =
      .next { s with results := s.results ++ [.seq (slipDecode s.cfg.slipTrailEsc src).bytes] }

/-- 41_slip_codec.md R140: `SLIP_MAX n`, word 0x6000, answers `2n + 2`, exactly, or is refused when that
does not fit a finite `LENW`; every encoding of `n` bytes is within it. -/
def Obligations.SlipMaxAnswersTheBound : Prop :=
  ∀ (n : Nat),
    (∀ data, decode ⟨0x6000, data, n⟩ = .ok (.slipMax n)) ∧
    (∀ s : State, LengthFits s.cfg (2 * n + 2) →
      exec (.slipMax n) s = .next { s with results := s.results ++ [.nat (2 * n + 2)] }) ∧
    (∀ (s : State) (w : Nat), s.cfg.lenw = some w → 2 ^ w ≤ 2 * n + 2 →
      exec (.slipMax n) s = .refused .lengthDoesNotFit) ∧
    (∀ src : ByteSeq, src.length = n → (slipEncode src).length ≤ 2 * n + 2)

/-! ### Codec operations and the state -/

/-- 30_encoding.md R93: with a finite `LENW`, an operand or an encoded length that does not fit is
refused, in every operation of formats S and L. -/
def Obligations.LengthsThatDoNotFitAreRefused : Prop :=
  ∀ (s : State) (w : Nat) (src : ByteSeq) (n : Nat), s.cfg.lenw = some w →
    (2 ^ w ≤ src.length →
      exec (.cobsEnc src) s = .refused .lengthDoesNotFit ∧
      exec (.cobsDec src) s = .refused .lengthDoesNotFit ∧
      exec (.slipEnc src) s = .refused .lengthDoesNotFit ∧
      exec (.slipDec src) s = .refused .lengthDoesNotFit ∧
      exec (.txSend src) s = .refused .lengthDoesNotFit) ∧
    (2 ^ w ≤ n →
      exec (.cobsMax n) s = .refused .lengthDoesNotFit ∧
      exec (.slipMax n) s = .refused .lengthDoesNotFit) ∧
    (2 ^ w ≤ (cobsEncode src).length → exec (.cobsEnc src) s = .refused .lengthDoesNotFit) ∧
    (2 ^ w ≤ (slipEncode src).length → exec (.slipEnc src) s = .refused .lengthDoesNotFit) ∧
    (2 ^ w ≤ (encodePayload s.cfg src).length → src ≠ [] → s.cfg.sinkEn = true →
      exec (.txSend src) s = .refused .lengthDoesNotFit)

/-- 10_state.md R36: the six codec operations change nothing but the result they answer, and that
result depends on no register, on no buffer and on no channel: in any other state with the same `LENW`
and `SLIP_TRAIL_ESC` they answer the same. -/
def Obligations.CodecOperationsTouchNoState : Prop :=
  ∀ (i : Instr) (s t s' : State),
    ((∃ src, i = .cobsEnc src) ∨ (∃ src, i = .cobsDec src) ∨ (∃ n, i = .cobsMax n) ∨
      (∃ src, i = .slipEnc src) ∨ (∃ src, i = .slipDec src) ∨ (∃ n, i = .slipMax n)) →
    t.cfg.lenw = s.cfg.lenw → t.cfg.slipTrailEsc = s.cfg.slipTrailEsc → exec i s = .next s' →
    ∃ r, s' = { s with results := s.results ++ [r] } ∧
      exec i t = .next { t with results := t.results ++ [r] }

/-! ### RX_BYTE -/

/-- 42_reassembler.md R152: a non-marker byte is stored at `CURSOR` when there is room, else dropped
with `OVF` set; everything else, every other byte of `RXBUF` included, is as before. -/
def Obligations.NonMarkerByteIsStoredOrDropped : Prop :=
  ∀ (s : State) (b : Byte), b ≠ s.cfg.marker →
    (s.cursor + 1 < s.cfg.capacity →
      ∃ m, exec (.rxByte b) s = .next { s with rxbuf := m, cursor := s.cursor + 1 } ∧
        Memory.read m s.cursor = some b ∧
        ∀ i, i ≠ s.cursor → Memory.read m i = Memory.read s.rxbuf i) ∧
    (s.cfg.capacity ≤ s.cursor + 1 → exec (.rxByte b) s = .next { s with ovf := true })

/-- 42_reassembler.md R153, R155, R159: a marker event. With a handler the frame is decoded, the block
cleared and one event emitted with the handler's tag; without one the block is cleared and nothing else
happens. What the handler then issues, and what it leaves in the host's variables, is a function of the
packet and of the host's own state (60_exceptions.md R203); that the variables change already at the
dispatch, and that all this is held in `replies`, `handlers` and `hostVars` and waits in `calls`, is the
model's choice (entries 4, 6 and 27). -/
def Obligations.MarkerDecodesClearsAndDispatches : Prop :=
  ∀ s : State,
    (∀ (hid : Tag) (frame : ByteSeq), s.hnd = some hid → s.frame = .ok frame →
      exec (.rxByte s.cfg.marker) s = .next { s with
        cursor := 0, ovf := false,
        pkt := s.pkt ++ [⟨hid, (decodeFrame s.cfg frame).bytes⟩],
        replies := s.replies.tail,
        hostVars := s.handlerVars hid (decodeFrame s.cfg frame).bytes,
        calls := (match s.handlerLines hid (decodeFrame s.cfg frame).bytes with
          | [] => s.calls
          | line :: lines => .host (line :: lines) :: s.calls) }) ∧
    (s.hnd = none → exec (.rxByte s.cfg.marker) s = .next { s with cursor := 0, ovf := false })

/-- 10_state.md R27 (d), (e), 42_reassembler.md R154: in a good state the frame can be read; it is the
`CURSOR` bytes of the buffer from index 0 and holds no marker. -/
def Obligations.FrameIsReadableAndMarkerFree : Prop :=
  ∀ s : State, s.Inv →
    ∃ frame, s.frame = .ok frame ∧ frame.length = s.cursor ∧ s.cfg.marker ∉ frame ∧
      ∀ i, i < s.cursor → frame[i]? = Memory.read s.rxbuf i

/-- 60_exceptions.md R190: in a good state `RX_BYTE` completes for every byte, and so does `RX_DRAIN`
whatever `RXQ` holds. -/
def Obligations.ReceiveOperationsComplete : Prop :=
  ∀ s : State, s.Inv →
    (∀ b : Byte, ∃ t, exec (.rxByte b) s = .next t ∧ t.Inv) ∧ (∃ t, exec .rxDrain s = .next t ∧ t.Inv)

/-- 20_memory.md R51, 42_reassembler.md R152: a stored byte becomes the last of the frame. -/
def Obligations.StoredByteEndsTheFrame : Prop :=
  ∀ (s : State) (b : Byte) (frame : ByteSeq), s.frame = .ok frame → b ≠ s.cfg.marker →
    s.cursor + 1 < s.cfg.capacity →
    ∃ t, exec (.rxByte b) s = .next t ∧ t.frame = .ok (frame ++ [b])

/-- 42_reassembler.md R152, R156, R162: bytes that are not the marker, fed to a cleared block, are
buffered up to `CAPACITY - 1` in order, and `OVF` is set exactly when more arrived; the rest of the
state is as before. -/
def Obligations.FeedBuffersUpToTheCapacity : Prop :=
  ∀ (s : State) (bytes : ByteSeq), s.Inv → s.Cleared → s.cfg.marker ∉ bytes →
    ∃ t, feed bytes s = .next t ∧ t.Inv ∧
      t.frame = .ok (bytes.take (s.cfg.capacity - 1)) ∧
      t.cursor = min bytes.length (s.cfg.capacity - 1) ∧
      t.ovf = decide (s.cfg.capacity ≤ bytes.length) ∧
      t = { s with rxbuf := t.rxbuf, cursor := t.cursor, ovf := t.ovf }

/-- 42_reassembler.md R153, R156, R157, R158: the frame fed to a cleared block is delivered at its
marker, cut to the first `CAPACITY - 1` bytes, empty or failed included, and the block is cleared
again. -/
def Obligations.FrameIsDeliveredAtItsMarker : Prop :=
  ∀ (s : State) (bytes : ByteSeq) (hid : Tag), s.Inv → s.Cleared → s.Quiet → s.hnd = some hid →
    s.cfg.marker ∉ bytes →
    ∃ t, feed (bytes ++ [s.cfg.marker]) s = .next t ∧ t.Inv ∧ t.Cleared ∧
      t.pkt = s.pkt ++ [⟨hid, (decodeFrame s.cfg (bytes.take (s.cfg.capacity - 1))).bytes⟩] ∧
      t = { s with rxbuf := t.rxbuf, pkt := t.pkt, replies := t.replies }

/-- 42_reassembler.md R165: without a handler the same frame is lost without trace. -/
def Obligations.FrameWithoutAHandlerIsLost : Prop :=
  ∀ (s : State) (bytes : ByteSeq), s.Inv → s.Cleared → s.hnd = none → s.cfg.marker ∉ bytes →
    ∃ t, feed (bytes ++ [s.cfg.marker]) s = .next t ∧ t.Inv ∧ t = { s with rxbuf := t.rxbuf }

/-- 42_reassembler.md R167: what `TX_SEND p` writes with COBS and marker 0x00, fed to a cleared block
of the same configuration that it fits, delivers exactly `p`. -/
def Obligations.CobsLoopbackDeliversThePayload : Prop :=
  ∀ (s : State) (p : ByteSeq) (hid : Tag), s.Inv → s.Cleared → s.Quiet → s.hnd = some hid →
    s.cfg.codec = .cobs → s.cfg.marker = 0x00 → s.cfg.sinkEn = true → p ≠ [] →
    (cobsEncode p).length ≤ s.cfg.capacity - 1 →
    ∃ wire t, exec (.txSend p) s = .next { s with txq := s.txq ++ wire } ∧
      feed wire s = .next t ∧ t.Cleared ∧ t.pkt = s.pkt ++ [⟨hid, p⟩]

/-- 42_reassembler.md R167: the same with SLIP and marker 0xC0, where the leading `END` is a marker
event of its own and delivers an empty packet first. -/
def Obligations.SlipLoopbackDeliversThePayload : Prop :=
  ∀ (s : State) (p : ByteSeq) (hid : Tag), s.Inv → s.Cleared → s.Quiet → s.hnd = some hid →
    s.cfg.codec = .slip → s.cfg.marker = 0xC0 → s.cfg.sinkEn = true → p ≠ [] →
    p.length + slipEscapes p ≤ s.cfg.capacity - 1 →
    ∃ wire t, exec (.txSend p) s = .next { s with txq := s.txq ++ wire } ∧
      feed wire s = .next t ∧ t.Cleared ∧
      t.pkt = s.pkt ++ [⟨hid, []⟩, ⟨hid, p⟩]

/-! ### RX_DRAIN -/

/-- 42_reassembler.md R160: `RX_DRAIN` does nothing on an empty source; else it consumes the oldest
byte as `RX_BYTE` does and its loop is to go on. -/
def Obligations.DrainConsumesTheOldestByte : Prop :=
  ∀ s : State,
    (s.rxq = [] → exec .rxDrain s = .next s) ∧
    (∀ b rest, s.rxq = b :: rest →
      exec .rxDrain s = exec (.rxByte b) { s with rxq := rest, calls := .drain :: s.calls })

/-- 42_reassembler.md R160, 30_encoding.md R100: when nothing arrives meanwhile and the handler issues
no operations, a drain runs as feeding what `RXQ` holds, and leaves `RXQ` empty. -/
def Obligations.DrainRunsAsFeed : Prop :=
  ∀ (s : State) (outer : List Activity), s.cfg.wf = true → s.Quiet → s.NothingArrives →
    s.calls = .drain :: outer →
    steps (s.rxq.length + 1) s = feed s.rxq { s with rxq := [], calls := outer }

/-- 30_encoding.md R100: under the same conditions the lines of `FEED bytes` run as feeding the
bytes. -/
def Obligations.FeedLinesRunAsFeed : Prop :=
  ∀ (bytes : ByteSeq) (s : State) (lines : List HostLine) (outer : List Activity),
    s.cfg.wf = true → s.Quiet → s.NothingArrives →
    s.calls = .host (feedLines bytes ++ lines) :: outer →
    steps bytes.length s = feed bytes (s.withCalls (.host lines :: outer))

/-- 70_reset_and_hazards.md R233: with a source that gains a byte before every step, a drain with no
handler never ends and never stops. -/
def Obligations.EndlessSourceKeepsTheDrainRunning : Prop :=
  ∀ (s : State) (b : Byte) (outer : List Activity) (n : Nat), s.cfg.wf = true → s.hnd = none →
    s.arrivals = [] → s.arrivalsThen = [b] → s.calls = .drain :: outer →
    ∃ t, steps n s = .next t ∧ t.calls = .drain :: outer ∧ t.rxq.length = s.rxq.length

/-- 60_exceptions.md R200, 70_reset_and_hazards.md R232: a handler that feeds a marker on every call
nests without end, and the machine shows it: every step is one more event and one more call that has
not returned. -/
def Obligations.EndlessHandlerNestsWithoutEnd : Prop :=
  ∀ (s : State) (hid : Tag) (outer : List Activity) (n : Nat), s.cfg.wf = true → s.Cleared →
    s.hnd = some hid → s.replies = [] →
    handlerEntry s.handlers hid = .lines [.line (opLine (.rxByte s.cfg.marker))] →
    s.calls = .host [opLine (.rxByte s.cfg.marker)] :: outer →
    ∃ t, steps n s = .next t ∧ t.pkt = s.pkt ++ List.replicate n ⟨hid, []⟩ ∧
      t.calls.length = s.calls.length + n

/-! ### RX_OVF, SET_HANDLER, RESET, TX_SEND -/

/-- 42_reassembler.md R162: `RX_OVF`, word 0xA000, answers `OVF` and changes nothing else. -/
def Obligations.OverflowQueryAnswersTheFlag : Prop :=
  (∀ data arg, decode ⟨0xA000, data, arg⟩ = .ok .rxOvf) ∧
  ∀ s : State, exec .rxOvf s = .next { s with results := s.results ++ [.bool s.ovf] }

/-- 42_reassembler.md R162, R153: a block fed as many non-marker bytes as its capacity answers true
until a marker is consumed, and false after it. -/
def Obligations.OverflowLastsUntilTheMarker : Prop :=
  ∀ (s : State) (bytes : ByteSeq), s.Inv → s.Cleared → s.cfg.marker ∉ bytes →
    s.cfg.capacity ≤ bytes.length →
    ∃ t u, feed bytes s = .next t ∧ exec (.rxByte s.cfg.marker) t = .next u ∧
      exec .rxOvf t = .next { t with results := t.results ++ [.bool true] } ∧
      exec .rxOvf u = .next { u with results := u.results ++ [.bool false] }

/-- 42_reassembler.md R164: `SET_HANDLER v`, word 0xB000 or 0xB080 + `hid`, replaces `HND` whole and changes nothing else. -/
def Obligations.SetHandlerReplacesTheHandler : Prop :=
  (∀ data arg, decode ⟨0xB000, data, arg⟩ = .ok (.setHandler none)) ∧
  (∀ (hid : Tag) data arg, decode ⟨0xB080 + hid.setWidth 16, data, arg⟩ =
    .ok (.setHandler (some hid))) ∧
  ∀ (v : Option Tag) (s : State), exec (.setHandler v) s = .next { s with hnd := v }

/-- 70_reset_and_hazards.md R220: `RESET` clears the block and its handler; no byte of `RXBUF` counts
as written after it (entry 3), and everything else is as before. -/
def Obligations.ResetClearsTheBlock : Prop :=
  ∀ s : State, ∃ t, exec .reset s = .next t ∧ t.cursor = 0 ∧ t.ovf = false ∧ t.hnd = none ∧
    (∀ i, Memory.read t.rxbuf i = none) ∧
    t = { s with rxbuf := t.rxbuf, cursor := t.cursor, ovf := t.ovf, hnd := t.hnd }

/-- 43_framer.md R180, R181: `TX_SEND`, word 0xC000, of a non-empty payload with a sink appends the encoded bytes of
the configured codec and then the marker, and writes nothing else; an empty payload, or no sink, makes
it a no-op. (That the lengths fit is 30_encoding.md R93.) -/
def Obligations.TxSendWritesTheFrameAndTheMarker : Prop :=
  ∀ (p : ByteSeq) (s : State), LengthFits s.cfg p.length →
    (∀ arg, decode ⟨0xC000, p, arg⟩ = .ok (.txSend p)) ∧
    (p ≠ [] → s.cfg.sinkEn = true → s.cfg.codec = .cobs → LengthFits s.cfg (cobsEncode p).length →
      exec (.txSend p) s = .next { s with txq := s.txq ++ cobsEncode p ++ [s.cfg.marker] }) ∧
    (p ≠ [] → s.cfg.sinkEn = true → s.cfg.codec = .slip → LengthFits s.cfg (slipEncode p).length →
      exec (.txSend p) s = .next { s with txq := s.txq ++ slipEncode p ++ [s.cfg.marker] }) ∧
    (p = [] → exec (.txSend p) s = .next s) ∧
    (s.cfg.sinkEn = false → exec (.txSend p) s = .next s)

/-- 43_framer.md R185: a `TX_SEND` before an `RX_BYTE` has the effect of the same `TX_SEND` after
it. -/
def Obligations.TxSendAndRxByteCommute : Prop :=
  ∀ (p : ByteSeq) (b : Byte) (s u t : State),
    exec (.txSend p) s = .next u → exec (.rxByte b) u = .next t →
    ∃ v, exec (.rxByte b) s = .next v ∧ exec (.txSend p) v = .next t

/-! ### The whole machine -/

/-- 10_state.md R27: from every good state, every step ends in a good state. -/
def Obligations.StepKeepsTheInvariant : Prop :=
  ∀ s t : State, s.Inv → step s = .next t → t.Inv

/-- 00_scope.md R13, 60_exceptions.md R190: from every good state, no step faults, whatever the host
and the environment do. -/
def Obligations.StepNeverFaults : Prop := ∀ (s : State) (f : Fault), s.Inv → step s ≠ .fault f

/-- 42_reassembler.md R155, 20_memory.md R63: packet events, sink bytes and results are only ever
appended, so that no event already emitted is changed. -/
def Obligations.LogsOnlyGrow : Prop :=
  ∀ s t : State, step s = .next t →
    s.pkt <+: t.pkt ∧ s.txq <+: t.txq ∧ s.results <+: t.results

/-- 10_state.md R37: which operations write what. -/
def Obligations.OperationsWriteOnlyTheirState : Prop :=
  ∀ (i : Instr) (s t : State), exec i s = .next t →
    t.cfg = s.cfg ∧ t.arrivals = s.arrivals ∧ t.arrivalsThen = s.arrivalsThen ∧
    t.handlers = s.handlers ∧
    (t.hnd ≠ s.hnd → (∃ v, i = .setHandler v) ∨ i = .reset) ∧
    (t.rxbuf ≠ s.rxbuf ∨ t.cursor ≠ s.cursor ∨ t.ovf ≠ s.ovf →
      (∃ b, i = .rxByte b) ∨ i = .rxDrain ∨ i = .reset) ∧
    (t.pkt ≠ s.pkt ∨ t.replies ≠ s.replies ∨ t.hostVars ≠ s.hostVars ∨ t.calls ≠ s.calls →
      (∃ b, i = .rxByte b) ∨ i = .rxDrain) ∧
    (t.rxq ≠ s.rxq → i = .rxDrain) ∧
    (t.txq ≠ s.txq → ∃ p, i = .txSend p) ∧
    (t.results ≠ s.results → (∃ src, i = .cobsEnc src) ∨ (∃ src, i = .cobsDec src) ∨
      (∃ n, i = .cobsMax n) ∨ (∃ src, i = .slipEnc src) ∨ (∃ src, i = .slipDec src) ∨
      (∃ n, i = .slipMax n) ∨ i = .rxOvf)

/-- 10_state.md R24, 60_exceptions.md R192: `OVF` is set only by a dropped byte, and cleared only by a
marker or by `RESET`. -/
def Obligations.OverflowFlagChangesOnlyAsTheRulesSay : Prop :=
  ∀ (i : Instr) (s t : State), exec i s = .next t →
    (s.ovf = false → t.ovf = true → s.cfg.capacity ≤ s.cursor + 1 ∧
      ∃ b, b ≠ s.cfg.marker ∧ (i = .rxByte b ∨ (i = .rxDrain ∧ s.rxq.head? = some b))) ∧
    (s.ovf = true → t.ovf = false → i = .reset ∨ i = .rxByte s.cfg.marker ∨
      (i = .rxDrain ∧ s.rxq.head? = some s.cfg.marker))

/-- 60_exceptions.md R208: a step of one instance leaves every other as it was. -/
def Obligations.InstancesShareNothing : Prop :=
  ∀ (k : Nat) (before after : List State), stepInstance k before = .next after →
    ∀ j, j ≠ k → after[j]? = before[j]?
end

