-- ==== Sys2Proof/Laws/Codec.lean ====
section
/-! SUPPORT. What one round of each codec loop does: the COBS encoder's registers as a block and an
open group, the COBS decoder on a whole group, the SLIP decoder on one unit. -/

namespace Sys2Proof.Machine

/-! ### The COBS encoder -/

/-- The encoder's registers hold the block `done`, then the open group with data `group`: its code
byte is reserved at `code_index` and counts its data. -/
def CobsEncRegs.Open (r : CobsEncRegs) (done group : ByteSeq) : Prop :=
  r.dst = done ++ 0x00 :: group ∧ r.codeIndex = done.length ∧
    r.code = BitVec.ofNat 8 (group.length + 1) ∧ group.length < 254

theorem cobsEncStart_open : cobsEncStart.Open [] [] := by
  simp [CobsEncRegs.Open, cobsEncStart]

/-- Back-filling writes the code byte in front of the group. -/
theorem set_codeIndex (done group : ByteSeq) (c : Byte) :
    (done ++ 0x00 :: group).set done.length c = done ++ c :: group := by
  simp

theorem cobsEncFinish_open {r : CobsEncRegs} {done group : ByteSeq} (h : r.Open done group) :
    cobsEncFinish r = done ++ groupBytes group := by
  obtain ⟨h1, h2, h3, _⟩ := h
  simp [cobsEncFinish, h1, h2, h3, groupBytes]

theorem cobsEncByte_zero {r : CobsEncRegs} {done group : ByteSeq} (h : r.Open done group) :
    (cobsEncByte r 0x00).Open (done ++ groupBytes group) [] := by
  obtain ⟨h1, h2, h3, _⟩ := h
  simp [CobsEncRegs.Open, cobsEncByte, cobsEncClose, h1, h2, h3, groupBytes]

/-- A code register below 0xFF becomes 0xFF exactly at the 254th byte. -/
theorem code_eq_full {n : Nat} (h : n < 254) :
    BitVec.ofNat 8 (n + 1) + 1 = (0xFF : Byte) ↔ n + 1 = 254 := by
  constructor
  · intro h'
    have := congrArg BitVec.toNat h'
    simp at this
    omega
  · intro h'
    obtain rfl : n = 253 := by omega
    decide

theorem cobsEncByte_full {r : CobsEncRegs} {done group : ByteSeq} {b : Byte}
    (h : r.Open done group) (hb : b ≠ 0x00) (hl : group.length + 1 = 254) :
    (cobsEncByte r b).Open (done ++ groupBytes (group ++ [b])) [] := by
  obtain ⟨h1, h2, h3, h4⟩ := h
  have hc : (cobsEncCopy r b).code = 0xFF := by
    simp only [cobsEncCopy, h3]
    exact (code_eq_full h4).2 hl
  have hg : groupBytes (group ++ [b]) = 0xFF :: (group ++ [b]) := by
    simp [groupBytes, hl]
  rw [cobsEncByte, if_neg hb, if_pos hc]
  simp [CobsEncRegs.Open, cobsEncClose, cobsEncCopy, h1, h2, hg]

theorem cobsEncByte_copy {r : CobsEncRegs} {done group : ByteSeq} {b : Byte}
    (h : r.Open done group) (hb : b ≠ 0x00) (hl : group.length + 1 ≠ 254) :
    (cobsEncByte r b).Open done (group ++ [b]) := by
  obtain ⟨h1, h2, h3, h4⟩ := h
  have hc : ¬ (cobsEncCopy r b).code = 0xFF := by
    simp only [cobsEncCopy, h3]
    exact fun h => hl ((code_eq_full h4).1 h)
  rw [cobsEncByte, if_neg hb, if_neg hc]
  refine ⟨by simp [cobsEncCopy, h1], h2, by simp [cobsEncCopy, h3, BitVec.ofNat_add], ?_⟩
  simp
  omega

/-! ### The COBS decoder -/

/-- The number a whole group's code byte stands for. -/
theorem groupCode_toNat {g : ByteSeq} (h : g.length ≤ 254) :
    (BitVec.ofNat 8 (g.length + 1) : Byte).toNat = g.length + 1 := by
  simp; omega

/-- A group's code byte is 0xFF exactly when it is full. -/
theorem groupCode_full {g : ByteSeq} (h : g.length ≤ 254) :
    (BitVec.ofNat 8 (g.length + 1) : Byte) = 0xFF ↔ g.length = 254 := by
  constructor
  · intro h'
    have := congrArg BitVec.toNat h'
    rw [groupCode_toNat h] at this
    simpa using this
  · intro h'
    rw [h']
    decide

/-- One round of the decoder on a whole group. -/
theorem cobsDecLoop_group {g : ByteSeq} (h : g.length ≤ 254) (rounds : Nat) (rest dst : ByteSeq) :
    cobsDecLoop (rounds + 1) (groupBytes g ++ rest) dst =
      cobsDecLoop rounds rest
        (dst ++ g ++ if g.length = 254 ∨ rest = [] then [] else [0x00]) := by
  have hn := groupCode_toNat h
  have hf : cobsDecFails (BitVec.ofNat 8 (g.length + 1)) ((g ++ rest).length + 1) = false := by
    simp only [cobsDecFails, hn]
    simp
  have hz : cobsDecZero (BitVec.ofNat 8 (g.length + 1)) rest =
      if g.length = 254 ∨ rest = [] then [] else [0x00] := by
    simp only [cobsDecZero, ne_eq, groupCode_full h]
    by_cases h1 : g.length = 254 <;> by_cases h2 : rest = [] <;> simp [h1, h2]
  simp only [groupBytes, List.cons_append, cobsDecLoop, hf, hn, Nat.add_sub_cancel,
    List.drop_left, List.take_left, hz]
  simp

/-- Enough rounds are as good as more. -/
theorem cobsDecLoop_rounds : ∀ (a b : Nat) (rest dst : ByteSeq), rest.length ≤ a → rest.length ≤ b →
    cobsDecLoop a rest dst = cobsDecLoop b rest dst := by
  intro a
  induction a with
  | zero =>
    intro b rest dst ha _
    obtain rfl : rest = [] := List.length_eq_zero_iff.1 (by omega)
    cases b <;> rfl
  | succ a ih =>
    intro b rest dst ha hb
    cases rest with
    | nil => cases b <;> rfl
    | cons c tail =>
      cases b with
      | zero => simp at hb
      | succ b =>
        simp only [cobsDecLoop]
        split
        · rfl
        · simp only [List.length_cons] at ha hb
          exact ih _ _ _ (by simp; omega) (by simp; omega)

/-- The decode of any input in terms of its first code byte. -/
theorem cobsDecLoop_cons (rounds : Nat) (c : Byte) (tail dst : ByteSeq) :
    cobsDecLoop (rounds + 1) (c :: tail) dst =
      if cobsDecFails c (tail.length + 1) then .fail
      else cobsDecLoop rounds (tail.drop (c.toNat - 1))
        (dst ++ tail.take (c.toNat - 1) ++ cobsDecZero c (tail.drop (c.toNat - 1))) := rfl

/-! ### The SLIP decoder -/

/-- What one round of the decoder does with a byte that is no lone trailing `ESC`. -/
theorem slipDecLoop_end (trail : SlipTrailEsc) (rest dst : ByteSeq) :
    slipDecLoop trail (slipEnd :: rest) dst = slipDecLoop trail rest dst := by
  cases rest with
  | nil => simp [slipDecLoop]
  | cons nb rest => simp [slipDecLoop]

theorem slipDecLoop_pair (trail : SlipTrailEsc) (nb : Byte) (rest dst : ByteSeq) :
    slipDecLoop trail (slipEsc :: nb :: rest) dst =
      slipDecLoop trail rest (dst ++ slipContinuation nb) := by
  have : slipEsc ≠ slipEnd := by decide
  simp [slipDecLoop, this]

theorem slipDecLoop_esc (trail : SlipTrailEsc) (dst : ByteSeq) :
    slipDecLoop trail [slipEsc] dst = slipTrailing trail dst := by
  have : slipEsc ≠ slipEnd := by decide
  simp [slipDecLoop, this]

theorem slipDecLoop_ordinary (trail : SlipTrailEsc) {b : Byte} (h : b ≠ slipEnd) (h' : b ≠ slipEsc)
    (rest dst : ByteSeq) :
    slipDecLoop trail (b :: rest) dst = slipDecLoop trail rest (dst ++ [b]) := by
  cases rest with
  | nil => simp [slipDecLoop, h, h']
  | cons nb rest => simp [slipDecLoop, h, h']

/-- One payload byte's symbol gives the byte back. -/
theorem slipDecLoop_symbol (trail : SlipTrailEsc) (b : Byte) (rest dst : ByteSeq) :
    slipDecLoop trail (slipSymbol b ++ rest) dst = slipDecLoop trail rest (dst ++ [b]) := by
  have h1 : slipContinuation slipEscEnd = [slipEnd] := by decide
  have h2 : slipContinuation slipEscEsc = [slipEsc] := by decide
  unfold slipSymbol
  split
  · rename_i h; subst h
    simp only [List.cons_append, List.nil_append, slipDecLoop_pair, h1]
  · split
    · rename_i h; subst h
      simp only [List.cons_append, List.nil_append, slipDecLoop_pair, h2]
    · rename_i h h'
      simp only [List.cons_append, List.nil_append, slipDecLoop_ordinary trail h h']

/-- How an input's units come apart: none, an `END`, a lone `ESC`, an `ESC` pair, an ordinary byte
(30_encoding.md R88). -/
theorem slip_units {motive : ByteSeq → Prop} (nil : motive [])
    (stop : ∀ rest, motive rest → motive (slipEnd :: rest)) (lone : motive [slipEsc])
    (pair : ∀ nb rest, motive rest → motive (slipEsc :: nb :: rest))
    (ordinary : ∀ b rest, b ≠ slipEnd → b ≠ slipEsc → motive rest → motive (b :: rest)) :
    ∀ input, motive input
  | [] => nil
  | [b] => by
    by_cases h : b = slipEnd
    · exact h ▸ stop [] nil
    · by_cases h' : b = slipEsc
      · exact h' ▸ lone
      · exact ordinary b [] h h' nil
  | b :: nb :: rest => by
    by_cases h : b = slipEnd
    · exact h ▸ stop _ (slip_units nil stop lone pair ordinary (nb :: rest))
    · by_cases h' : b = slipEsc
      · exact h' ▸ pair nb rest (slip_units nil stop lone pair ordinary rest)
      · exact ordinary b _ h h' (slip_units nil stop lone pair ordinary (nb :: rest))

end Sys2Proof.Machine
end

