-- ==== Sys2Proof/Laws/Encoding.lean ====
section
/-! SUPPORT. The fields of an operation word as numbers, and the fields of the words the encoder
writes. -/

namespace Sys2Proof.Machine

theorem opcField_toNat (w : Word16) : (opcField w).toNat = w.toNat / 4096 := by
  have := w.isLt
  simp [opcField, Nat.shiftRight_eq_div_pow]
  omega

theorem rsvField_toNat (w : Word16) : (rsvField w).toNat = w.toNat / 256 % 16 := by
  simp [rsvField, Nat.shiftRight_eq_div_pow]

theorem imm8Field_toNat (w : Word16) : (imm8Field w).toNat = w.toNat % 256 := by
  simp [imm8Field]

theorem hidField_toNat (b : Byte) : (hidField b).toNat = b.toNat % 128 := by
  simp [hidField]

theorem presentField_iff (b : Byte) : presentField b = true ↔ 128 ≤ b.toNat := by
  have := b.isLt
  simp [presentField, BitVec.getLsbD, Nat.testBit, Nat.shiftRight_eq_div_pow]
  omega

theorem opWord_toNat (o : BitVec 4) (b : Byte) :
    (opWord o b).toNat = o.toNat * 4096 + b.toNat := by
  have := b.isLt
  simp only [opWord, BitVec.toNat_append]
  rw [← Nat.shiftLeft_add_eq_or_of_lt b.isLt]
  simp [Nat.shiftLeft_eq]
  omega

theorem handlerImm_some_toNat (hid : Tag) : (handlerImm (some hid)).toNat = 128 + hid.toNat := by
  simp only [handlerImm, BitVec.toNat_append]
  rw [← Nat.shiftLeft_add_eq_or_of_lt hid.isLt]
  simp [Nat.shiftLeft_eq]

@[simp] theorem opcField_opWord (o : BitVec 4) (b : Byte) : opcField (opWord o b) = o := by
  apply BitVec.eq_of_toNat_eq
  have := b.isLt
  rw [opcField_toNat, opWord_toNat]
  omega

@[simp] theorem rsvField_opWord (o : BitVec 4) (b : Byte) : rsvField (opWord o b) = 0 := by
  apply BitVec.eq_of_toNat_eq
  have := b.isLt
  rw [rsvField_toNat, opWord_toNat]
  simp
  omega

@[simp] theorem imm8Field_opWord (o : BitVec 4) (b : Byte) : imm8Field (opWord o b) = b := by
  apply BitVec.eq_of_toNat_eq
  have := b.isLt
  rw [imm8Field_toNat, opWord_toNat]
  omega

/-- A word with `rsv = 0` is made of its `opc` and its `imm8`. -/
theorem opWord_of_fields {w : Word16} (h : rsvField w = 0) :
    opWord (opcField w) (imm8Field w) = w := by
  apply BitVec.eq_of_toNat_eq
  have h' := rsvField_toNat w
  rw [h] at h'
  rw [opWord_toNat, opcField_toNat, imm8Field_toNat]
  simp at h'
  omega

/-- The decode of a word given by its fields. -/
theorem decode_of_fields {w : Word16} {o : BitVec 4} {b : Byte} (h : rsvField w = 0)
    (ho : opcField w = o) (hb : imm8Field w = b) (data : ByteSeq) (arg : Nat) :
    decode ⟨w, data, arg⟩ = decodeOpc o b data arg := by
  simp only [decode, h, ho, hb, if_true]

/-- The decode of a word the encoder writes. -/
theorem decode_opWord (o : BitVec 4) (b : Byte) (data : ByteSeq) (arg : Nat) :
    decode ⟨opWord o b, data, arg⟩ = decodeOpc o b data arg :=
  decode_of_fields (by simp) (by simp) (by simp) data arg

/-- A word of format N, S or L that decodes has `imm8 = 0` and names its operation. -/
theorem withoutImm_ok {b : Byte} {i j : Instr} (h : withoutImm b i = .ok j) : b = 0 ∧ i = j := by
  unfold withoutImm at h
  split at h
  · cases h; exact ⟨‹_›, rfl⟩
  · cases h

/-- The operand byte of a `SET_HANDLER` that decodes is the one the encoder writes. -/
theorem decodeSetHandler_ok {b : Byte} {i : Instr} (h : decodeSetHandler b = .ok i) :
    ∃ v, i = .setHandler v ∧ handlerImm v = b := by
  unfold decodeSetHandler at h
  split at h
  · rename_i hp
    cases h
    refine ⟨_, rfl, BitVec.eq_of_toNat_eq ?_⟩
    have := (presentField_iff b).1 hp
    have := b.isLt
    rw [handlerImm_some_toNat, hidField_toNat]
    omega
  · rename_i hp
    split at h
    · rename_i hh
      cases h
      refine ⟨none, rfl, BitVec.eq_of_toNat_eq ?_⟩
      have h1 := mt (presentField_iff b).2 hp
      have h2 := hidField_toNat b
      rw [hh] at h2
      simp [handlerImm] at h2 ⊢
      omega
    · cases h

end Sys2Proof.Machine
end

