-- ==== Sys2Proof/Laws/Memory.lean ====
section
/-! SUPPORT. The laws of `RXBUF`: read after write, the canonical form, the written indices, and what
a range read gives. -/

namespace Sys2Proof.Machine

/-- A read after a write to the same index gives the byte written. -/
@[simp] theorem Memory.read_write_same (m : List Host.Cell) (i : Nat) (b : Byte) :
    Memory.read (Memory.write m i b) i = some b := by
  induction m with
  | nil => simp [Memory.write, Memory.read]
  | cons c m ih =>
    obtain ⟨j, c⟩ := c
    simp only [Memory.write]
    split
    · simp [Memory.read]
    · split
      · simp [Memory.read]
      · rename_i h1 h2
        simp [Memory.read, h2, ih]

/-- A write leaves every other index as it was. -/
theorem Memory.read_write_other (m : List Host.Cell) {i k : Nat} (b : Byte) (h : k ≠ i) :
    Memory.read (Memory.write m i b) k = Memory.read m k := by
  induction m with
  | nil => simp [Memory.write, Memory.read, h]
  | cons c m ih =>
    obtain ⟨j, c⟩ := c
    simp only [Memory.write]
    split
    · simp [Memory.read, h]
    · split
      · rename_i h1 h2
        subst h2
        simp [Memory.read, h]
      · simp only [Memory.read]; rw [ih]

/-- The canonical form as a statement about the list of indices. -/
theorem Memory.wf_iff_pairwise (m : List Host.Cell) :
    Memory.wf m = true ↔ (m.map Prod.fst).Pairwise (· < ·) := by
  induction m with
  | nil => simp [Memory.wf]
  | cons c m ih =>
    cases m with
    | nil => simp [Memory.wf]
    | cons d m =>
      simp only [Memory.wf, Bool.and_eq_true, decide_eq_true_eq, ih, List.map_cons]
      constructor
      · rintro ⟨h, h'⟩
        refine List.pairwise_cons.2 ⟨?_, h'⟩
        intro a ha
        rcases List.mem_cons.1 ha with rfl | ha
        · exact h
        · exact Nat.lt_trans h ((List.pairwise_cons.1 h').1 a ha)
      · intro h
        exact ⟨(List.pairwise_cons.1 h).1 _ (List.mem_cons_self ..), (List.pairwise_cons.1 h).2⟩

/-- The cells after a write are the written one and old ones. -/
theorem Memory.mem_write {m : List Host.Cell} {i : Nat} {b : Byte} {c : Host.Cell}
    (h : c ∈ Memory.write m i b) : c = (i, b) ∨ c ∈ m := by
  induction m with
  | nil => simpa [Memory.write] using h
  | cons d m ih =>
    obtain ⟨j, e⟩ := d
    simp only [Memory.write] at h
    split at h
    · rcases List.mem_cons.1 h with h | h
      · exact .inl h
      · exact .inr h
    · split at h
      · rcases List.mem_cons.1 h with h | h
        · exact .inl h
        · exact .inr (List.mem_cons_of_mem _ h)
      · rcases List.mem_cons.1 h with h | h
        · exact .inr (h ▸ List.mem_cons_self ..)
        · exact (ih h).imp id (List.mem_cons_of_mem _)

/-- A write keeps the canonical form. -/
theorem Memory.wf_write {m : List Host.Cell} (h : Memory.wf m = true) (i : Nat) (b : Byte) :
    Memory.wf (Memory.write m i b) = true := by
  rw [Memory.wf_iff_pairwise] at h ⊢
  induction m with
  | nil => simp [Memory.write]
  | cons d m ih =>
    obtain ⟨j, e⟩ := d
    have h' := List.pairwise_cons.1 h
    simp only [Memory.write]
    split
    · rename_i hij
      refine List.pairwise_cons.2 ⟨?_, h⟩
      intro a ha
      rcases List.mem_cons.1 ha with rfl | ha
      · exact hij
      · exact Nat.lt_trans hij (h'.1 a ha)
    · split
      · rename_i h2
        subst h2
        exact h
      · rename_i h1 h2
        refine List.pairwise_cons.2 ⟨?_, ih h'.2⟩
        intro a ha
        obtain ⟨c, hc, rfl⟩ := List.mem_map.1 ha
        rcases Memory.mem_write hc with rfl | hc
        · show j < i
          omega
        · exact h'.1 _ (List.mem_map_of_mem hc)

/-- A write in range gives the written memory. -/
theorem memWrite_of_lt {capacity i : Nat} (h : i < capacity) (m : List Host.Cell) (b : Byte) :
    memWrite capacity m i b = .ok (Memory.write m i b) := if_pos h

/-- A read in range of a written byte gives it. -/
theorem memRead_of_some {capacity i : Nat} {m : List Host.Cell} {b : Byte} (h : i < capacity)
    (hb : Memory.read m i = some b) : memRead capacity m i = .ok b := by
  simp [memRead, h, hb]

/-- A range read that succeeds gives the bytes of the buffer in index order, all in range. -/
theorem memReadRange_ok {capacity : Nat} {m : List Host.Cell} :
    ∀ {n : Nat} {bs : ByteSeq}, memReadRange capacity m n = .ok bs →
      bs.length = n ∧ n ≤ capacity ∧ ∀ i, i < n → Memory.read m i = bs[i]?
  | 0, bs, h => by
    obtain rfl : [] = bs := by simpa [memReadRange] using h
    simp
  | n + 1, bs, h => by
    simp only [memReadRange] at h
    split at h
    · cases h
    · rename_i bs' hbs
      split at h
      · cases h
      · rename_i b hb
        obtain ⟨hl, hc, hr⟩ := memReadRange_ok hbs
        simp only [memRead] at hb
        split at hb
        · rename_i hlt
          split at hb
          · rename_i b' hb'
            cases hb; cases h
            refine ⟨by simp [hl], hlt, fun i hi => ?_⟩
            rcases Nat.lt_succ_iff_lt_or_eq.1 hi with hi | rfl
            · rw [List.getElem?_append_left (by omega)]; exact hr i hi
            · simp [← hl] at hb' ⊢; simpa [hl] using hb'
          · cases hb
        · cases hb

/-- A range all written and within the capacity can be read. -/
theorem memReadRange_readable {capacity : Nat} {m : List Host.Cell} :
    ∀ {n : Nat}, n ≤ capacity → (∀ i, i < n → ∃ b, Memory.read m i = some b) →
      ∃ bs, memReadRange capacity m n = .ok bs
  | 0, _, _ => ⟨[], rfl⟩
  | n + 1, hc, h => by
    obtain ⟨bs, hbs⟩ := memReadRange_readable (capacity := capacity) (n := n) (by omega) (fun i hi => h i (by omega))
    obtain ⟨b, hb⟩ := h n (by omega)
    exact ⟨bs ++ [b], by simp [memReadRange, hbs, memRead_of_some (show n < capacity by omega) hb]⟩

/-- A range read depends only on the bytes of the range. -/
theorem memReadRange_congr {capacity : Nat} {m m' : List Host.Cell} :
    ∀ {n : Nat}, (∀ i, i < n → Memory.read m' i = Memory.read m i) →
      memReadRange capacity m' n = memReadRange capacity m n
  | 0, _ => rfl
  | n + 1, h => by
    simp only [memReadRange, memRead]
    rw [memReadRange_congr (n := n) (fun i hi => h i (by omega)), h n (by omega)]

/-- A byte written at the end of a range joins it. -/
theorem memReadRange_write {capacity n : Nat} {m : List Host.Cell} {bs : ByteSeq}
    (h : memReadRange capacity m n = .ok bs) (hn : n < capacity) (b : Byte) :
    memReadRange capacity (Memory.write m n b) (n + 1) = .ok (bs ++ [b]) := by
  have h' : memReadRange capacity (Memory.write m n b) n = .ok bs := by
    rw [← h]
    exact memReadRange_congr fun i hi => Memory.read_write_other m b (by omega)
  simp [memReadRange, h', memRead_of_some hn (Memory.read_write_same m n b)]

end Sys2Proof.Machine
end

