-- ==== Sys2Proof/Laws/State.lean ====
section
/-! SUPPORT. One lemma per field and update of the state, and for the state after construction, so
that no later proof unfolds a record update. -/

namespace Sys2Proof.Machine


/-! ### `clear` -/

@[simp] theorem State.clear_cfg (s : State) : s.clear.cfg = s.cfg := rfl
@[simp] theorem State.clear_rxbuf (s : State) : s.clear.rxbuf = s.rxbuf := rfl
@[simp] theorem State.clear_cursor (s : State) : s.clear.cursor = 0 := rfl
@[simp] theorem State.clear_ovf (s : State) : s.clear.ovf = false := rfl
@[simp] theorem State.clear_hnd (s : State) : s.clear.hnd = s.hnd := rfl
@[simp] theorem State.clear_rxq (s : State) : s.clear.rxq = s.rxq := rfl
@[simp] theorem State.clear_txq (s : State) : s.clear.txq = s.txq := rfl
@[simp] theorem State.clear_pkt (s : State) : s.clear.pkt = s.pkt := rfl
@[simp] theorem State.clear_results (s : State) : s.clear.results = s.results := rfl
@[simp] theorem State.clear_calls (s : State) : s.clear.calls = s.calls := rfl
@[simp] theorem State.clear_arrivals (s : State) : s.clear.arrivals = s.arrivals := rfl
@[simp] theorem State.clear_arrivalsThen (s : State) : s.clear.arrivalsThen = s.arrivalsThen := rfl
@[simp] theorem State.clear_replies (s : State) : s.clear.replies = s.replies := rfl
@[simp] theorem State.clear_handlers (s : State) : s.clear.handlers = s.handlers := rfl
@[simp] theorem State.clear_hostVars (s : State) : s.clear.hostVars = s.hostVars := rfl

/-! ### `stored` -/

@[simp] theorem State.stored_cfg (m : List Host.Cell) (s : State) : (s.stored m).cfg = s.cfg := rfl
@[simp] theorem State.stored_rxbuf (m : List Host.Cell) (s : State) : (s.stored m).rxbuf = m := rfl
@[simp] theorem State.stored_cursor (m : List Host.Cell) (s : State) : (s.stored m).cursor = s.cursor + 1 := rfl
@[simp] theorem State.stored_ovf (m : List Host.Cell) (s : State) : (s.stored m).ovf = s.ovf := rfl
@[simp] theorem State.stored_hnd (m : List Host.Cell) (s : State) : (s.stored m).hnd = s.hnd := rfl
@[simp] theorem State.stored_rxq (m : List Host.Cell) (s : State) : (s.stored m).rxq = s.rxq := rfl
@[simp] theorem State.stored_txq (m : List Host.Cell) (s : State) : (s.stored m).txq = s.txq := rfl
@[simp] theorem State.stored_pkt (m : List Host.Cell) (s : State) : (s.stored m).pkt = s.pkt := rfl
@[simp] theorem State.stored_results (m : List Host.Cell) (s : State) : (s.stored m).results = s.results := rfl
@[simp] theorem State.stored_calls (m : List Host.Cell) (s : State) : (s.stored m).calls = s.calls := rfl
@[simp] theorem State.stored_arrivals (m : List Host.Cell) (s : State) : (s.stored m).arrivals = s.arrivals := rfl
@[simp] theorem State.stored_arrivalsThen (m : List Host.Cell) (s : State) : (s.stored m).arrivalsThen = s.arrivalsThen := rfl
@[simp] theorem State.stored_replies (m : List Host.Cell) (s : State) : (s.stored m).replies = s.replies := rfl
@[simp] theorem State.stored_handlers (m : List Host.Cell) (s : State) : (s.stored m).handlers = s.handlers := rfl
@[simp] theorem State.stored_hostVars (m : List Host.Cell) (s : State) : (s.stored m).hostVars = s.hostVars := rfl

/-! ### `dropped` -/

@[simp] theorem State.dropped_cfg (s : State) : s.dropped.cfg = s.cfg := rfl
@[simp] theorem State.dropped_rxbuf (s : State) : s.dropped.rxbuf = s.rxbuf := rfl
@[simp] theorem State.dropped_cursor (s : State) : s.dropped.cursor = s.cursor := rfl
@[simp] theorem State.dropped_ovf (s : State) : s.dropped.ovf = true := rfl
@[simp] theorem State.dropped_hnd (s : State) : s.dropped.hnd = s.hnd := rfl
@[simp] theorem State.dropped_rxq (s : State) : s.dropped.rxq = s.rxq := rfl
@[simp] theorem State.dropped_txq (s : State) : s.dropped.txq = s.txq := rfl
@[simp] theorem State.dropped_pkt (s : State) : s.dropped.pkt = s.pkt := rfl
@[simp] theorem State.dropped_results (s : State) : s.dropped.results = s.results := rfl
@[simp] theorem State.dropped_calls (s : State) : s.dropped.calls = s.calls := rfl
@[simp] theorem State.dropped_arrivals (s : State) : s.dropped.arrivals = s.arrivals := rfl
@[simp] theorem State.dropped_arrivalsThen (s : State) : s.dropped.arrivalsThen = s.arrivalsThen := rfl
@[simp] theorem State.dropped_replies (s : State) : s.dropped.replies = s.replies := rfl
@[simp] theorem State.dropped_handlers (s : State) : s.dropped.handlers = s.handlers := rfl
@[simp] theorem State.dropped_hostVars (s : State) : s.dropped.hostVars = s.hostVars := rfl

/-! ### `setHnd` -/

@[simp] theorem State.setHnd_cfg (v : Option Tag) (s : State) : (s.setHnd v).cfg = s.cfg := rfl
@[simp] theorem State.setHnd_rxbuf (v : Option Tag) (s : State) : (s.setHnd v).rxbuf = s.rxbuf := rfl
@[simp] theorem State.setHnd_cursor (v : Option Tag) (s : State) : (s.setHnd v).cursor = s.cursor := rfl
@[simp] theorem State.setHnd_ovf (v : Option Tag) (s : State) : (s.setHnd v).ovf = s.ovf := rfl
@[simp] theorem State.setHnd_hnd (v : Option Tag) (s : State) : (s.setHnd v).hnd = v := rfl
@[simp] theorem State.setHnd_rxq (v : Option Tag) (s : State) : (s.setHnd v).rxq = s.rxq := rfl
@[simp] theorem State.setHnd_txq (v : Option Tag) (s : State) : (s.setHnd v).txq = s.txq := rfl
@[simp] theorem State.setHnd_pkt (v : Option Tag) (s : State) : (s.setHnd v).pkt = s.pkt := rfl
@[simp] theorem State.setHnd_results (v : Option Tag) (s : State) : (s.setHnd v).results = s.results := rfl
@[simp] theorem State.setHnd_calls (v : Option Tag) (s : State) : (s.setHnd v).calls = s.calls := rfl
@[simp] theorem State.setHnd_arrivals (v : Option Tag) (s : State) : (s.setHnd v).arrivals = s.arrivals := rfl
@[simp] theorem State.setHnd_arrivalsThen (v : Option Tag) (s : State) : (s.setHnd v).arrivalsThen = s.arrivalsThen := rfl
@[simp] theorem State.setHnd_replies (v : Option Tag) (s : State) : (s.setHnd v).replies = s.replies := rfl
@[simp] theorem State.setHnd_handlers (v : Option Tag) (s : State) : (s.setHnd v).handlers = s.handlers := rfl
@[simp] theorem State.setHnd_hostVars (v : Option Tag) (s : State) : (s.setHnd v).hostVars = s.hostVars := rfl

/-! ### `answer` -/

@[simp] theorem State.answer_cfg (r : Result) (s : State) : (s.answer r).cfg = s.cfg := rfl
@[simp] theorem State.answer_rxbuf (r : Result) (s : State) : (s.answer r).rxbuf = s.rxbuf := rfl
@[simp] theorem State.answer_cursor (r : Result) (s : State) : (s.answer r).cursor = s.cursor := rfl
@[simp] theorem State.answer_ovf (r : Result) (s : State) : (s.answer r).ovf = s.ovf := rfl
@[simp] theorem State.answer_hnd (r : Result) (s : State) : (s.answer r).hnd = s.hnd := rfl
@[simp] theorem State.answer_rxq (r : Result) (s : State) : (s.answer r).rxq = s.rxq := rfl
@[simp] theorem State.answer_txq (r : Result) (s : State) : (s.answer r).txq = s.txq := rfl
@[simp] theorem State.answer_pkt (r : Result) (s : State) : (s.answer r).pkt = s.pkt := rfl
@[simp] theorem State.answer_results (r : Result) (s : State) : (s.answer r).results = s.results ++ [r] := rfl
@[simp] theorem State.answer_calls (r : Result) (s : State) : (s.answer r).calls = s.calls := rfl
@[simp] theorem State.answer_arrivals (r : Result) (s : State) : (s.answer r).arrivals = s.arrivals := rfl
@[simp] theorem State.answer_arrivalsThen (r : Result) (s : State) : (s.answer r).arrivalsThen = s.arrivalsThen := rfl
@[simp] theorem State.answer_replies (r : Result) (s : State) : (s.answer r).replies = s.replies := rfl
@[simp] theorem State.answer_handlers (r : Result) (s : State) : (s.answer r).handlers = s.handlers := rfl
@[simp] theorem State.answer_hostVars (r : Result) (s : State) : (s.answer r).hostVars = s.hostVars := rfl

/-! ### `emitTx` -/

@[simp] theorem State.emitTx_cfg (bytes : ByteSeq) (s : State) : (s.emitTx bytes).cfg = s.cfg := rfl
@[simp] theorem State.emitTx_rxbuf (bytes : ByteSeq) (s : State) : (s.emitTx bytes).rxbuf = s.rxbuf := rfl
@[simp] theorem State.emitTx_cursor (bytes : ByteSeq) (s : State) : (s.emitTx bytes).cursor = s.cursor := rfl
@[simp] theorem State.emitTx_ovf (bytes : ByteSeq) (s : State) : (s.emitTx bytes).ovf = s.ovf := rfl
@[simp] theorem State.emitTx_hnd (bytes : ByteSeq) (s : State) : (s.emitTx bytes).hnd = s.hnd := rfl
@[simp] theorem State.emitTx_rxq (bytes : ByteSeq) (s : State) : (s.emitTx bytes).rxq = s.rxq := rfl
@[simp] theorem State.emitTx_txq (bytes : ByteSeq) (s : State) : (s.emitTx bytes).txq = s.txq ++ bytes := rfl
@[simp] theorem State.emitTx_pkt (bytes : ByteSeq) (s : State) : (s.emitTx bytes).pkt = s.pkt := rfl
@[simp] theorem State.emitTx_results (bytes : ByteSeq) (s : State) : (s.emitTx bytes).results = s.results := rfl
@[simp] theorem State.emitTx_calls (bytes : ByteSeq) (s : State) : (s.emitTx bytes).calls = s.calls := rfl
@[simp] theorem State.emitTx_arrivals (bytes : ByteSeq) (s : State) : (s.emitTx bytes).arrivals = s.arrivals := rfl
@[simp] theorem State.emitTx_arrivalsThen (bytes : ByteSeq) (s : State) : (s.emitTx bytes).arrivalsThen = s.arrivalsThen := rfl
@[simp] theorem State.emitTx_replies (bytes : ByteSeq) (s : State) : (s.emitTx bytes).replies = s.replies := rfl
@[simp] theorem State.emitTx_handlers (bytes : ByteSeq) (s : State) : (s.emitTx bytes).handlers = s.handlers := rfl
@[simp] theorem State.emitTx_hostVars (bytes : ByteSeq) (s : State) : (s.emitTx bytes).hostVars = s.hostVars := rfl

/-! ### `emitPkt` -/

@[simp] theorem State.emitPkt_cfg (hid : Tag) (bytes : ByteSeq) (s : State) : (s.emitPkt hid bytes).cfg = s.cfg := rfl
@[simp] theorem State.emitPkt_rxbuf (hid : Tag) (bytes : ByteSeq) (s : State) : (s.emitPkt hid bytes).rxbuf = s.rxbuf := rfl
@[simp] theorem State.emitPkt_cursor (hid : Tag) (bytes : ByteSeq) (s : State) : (s.emitPkt hid bytes).cursor = s.cursor := rfl
@[simp] theorem State.emitPkt_ovf (hid : Tag) (bytes : ByteSeq) (s : State) : (s.emitPkt hid bytes).ovf = s.ovf := rfl
@[simp] theorem State.emitPkt_hnd (hid : Tag) (bytes : ByteSeq) (s : State) : (s.emitPkt hid bytes).hnd = s.hnd := rfl
@[simp] theorem State.emitPkt_rxq (hid : Tag) (bytes : ByteSeq) (s : State) : (s.emitPkt hid bytes).rxq = s.rxq := rfl
@[simp] theorem State.emitPkt_txq (hid : Tag) (bytes : ByteSeq) (s : State) : (s.emitPkt hid bytes).txq = s.txq := rfl
@[simp] theorem State.emitPkt_pkt (hid : Tag) (bytes : ByteSeq) (s : State) : (s.emitPkt hid bytes).pkt = s.pkt ++ [⟨hid, bytes⟩] := rfl
@[simp] theorem State.emitPkt_results (hid : Tag) (bytes : ByteSeq) (s : State) : (s.emitPkt hid bytes).results = s.results := rfl
@[simp] theorem State.emitPkt_calls (hid : Tag) (bytes : ByteSeq) (s : State) : (s.emitPkt hid bytes).calls = s.calls := rfl
@[simp] theorem State.emitPkt_arrivals (hid : Tag) (bytes : ByteSeq) (s : State) : (s.emitPkt hid bytes).arrivals = s.arrivals := rfl
@[simp] theorem State.emitPkt_arrivalsThen (hid : Tag) (bytes : ByteSeq) (s : State) : (s.emitPkt hid bytes).arrivalsThen = s.arrivalsThen := rfl
@[simp] theorem State.emitPkt_replies (hid : Tag) (bytes : ByteSeq) (s : State) : (s.emitPkt hid bytes).replies = s.replies := rfl
@[simp] theorem State.emitPkt_handlers (hid : Tag) (bytes : ByteSeq) (s : State) : (s.emitPkt hid bytes).handlers = s.handlers := rfl
@[simp] theorem State.emitPkt_hostVars (hid : Tag) (bytes : ByteSeq) (s : State) : (s.emitPkt hid bytes).hostVars = s.hostVars := rfl

/-! ### `withCalls` -/

@[simp] theorem State.withCalls_cfg (calls : List Activity) (s : State) : (s.withCalls calls).cfg = s.cfg := rfl
@[simp] theorem State.withCalls_rxbuf (calls : List Activity) (s : State) : (s.withCalls calls).rxbuf = s.rxbuf := rfl
@[simp] theorem State.withCalls_cursor (calls : List Activity) (s : State) : (s.withCalls calls).cursor = s.cursor := rfl
@[simp] theorem State.withCalls_ovf (calls : List Activity) (s : State) : (s.withCalls calls).ovf = s.ovf := rfl
@[simp] theorem State.withCalls_hnd (calls : List Activity) (s : State) : (s.withCalls calls).hnd = s.hnd := rfl
@[simp] theorem State.withCalls_rxq (calls : List Activity) (s : State) : (s.withCalls calls).rxq = s.rxq := rfl
@[simp] theorem State.withCalls_txq (calls : List Activity) (s : State) : (s.withCalls calls).txq = s.txq := rfl
@[simp] theorem State.withCalls_pkt (calls : List Activity) (s : State) : (s.withCalls calls).pkt = s.pkt := rfl
@[simp] theorem State.withCalls_results (calls : List Activity) (s : State) : (s.withCalls calls).results = s.results := rfl
@[simp] theorem State.withCalls_calls (calls : List Activity) (s : State) : (s.withCalls calls).calls = calls := rfl
@[simp] theorem State.withCalls_arrivals (calls : List Activity) (s : State) : (s.withCalls calls).arrivals = s.arrivals := rfl
@[simp] theorem State.withCalls_arrivalsThen (calls : List Activity) (s : State) : (s.withCalls calls).arrivalsThen = s.arrivalsThen := rfl
@[simp] theorem State.withCalls_replies (calls : List Activity) (s : State) : (s.withCalls calls).replies = s.replies := rfl
@[simp] theorem State.withCalls_handlers (calls : List Activity) (s : State) : (s.withCalls calls).handlers = s.handlers := rfl
@[simp] theorem State.withCalls_hostVars (calls : List Activity) (s : State) : (s.withCalls calls).hostVars = s.hostVars := rfl

/-! ### `drainPop` -/

@[simp] theorem State.drainPop_cfg (rest : ByteSeq) (s : State) : (s.drainPop rest).cfg = s.cfg := rfl
@[simp] theorem State.drainPop_rxbuf (rest : ByteSeq) (s : State) : (s.drainPop rest).rxbuf = s.rxbuf := rfl
@[simp] theorem State.drainPop_cursor (rest : ByteSeq) (s : State) : (s.drainPop rest).cursor = s.cursor := rfl
@[simp] theorem State.drainPop_ovf (rest : ByteSeq) (s : State) : (s.drainPop rest).ovf = s.ovf := rfl
@[simp] theorem State.drainPop_hnd (rest : ByteSeq) (s : State) : (s.drainPop rest).hnd = s.hnd := rfl
@[simp] theorem State.drainPop_rxq (rest : ByteSeq) (s : State) : (s.drainPop rest).rxq = rest := rfl
@[simp] theorem State.drainPop_txq (rest : ByteSeq) (s : State) : (s.drainPop rest).txq = s.txq := rfl
@[simp] theorem State.drainPop_pkt (rest : ByteSeq) (s : State) : (s.drainPop rest).pkt = s.pkt := rfl
@[simp] theorem State.drainPop_results (rest : ByteSeq) (s : State) : (s.drainPop rest).results = s.results := rfl
@[simp] theorem State.drainPop_calls (rest : ByteSeq) (s : State) : (s.drainPop rest).calls = .drain :: s.calls := rfl
@[simp] theorem State.drainPop_arrivals (rest : ByteSeq) (s : State) : (s.drainPop rest).arrivals = s.arrivals := rfl
@[simp] theorem State.drainPop_arrivalsThen (rest : ByteSeq) (s : State) : (s.drainPop rest).arrivalsThen = s.arrivalsThen := rfl
@[simp] theorem State.drainPop_replies (rest : ByteSeq) (s : State) : (s.drainPop rest).replies = s.replies := rfl
@[simp] theorem State.drainPop_handlers (rest : ByteSeq) (s : State) : (s.drainPop rest).handlers = s.handlers := rfl
@[simp] theorem State.drainPop_hostVars (rest : ByteSeq) (s : State) : (s.drainPop rest).hostVars = s.hostVars := rfl

/-! ### `callHandler` -/

@[simp] theorem State.callHandler_cfg (hid : Tag) (bytes : ByteSeq) (s : State) : (s.callHandler hid bytes).cfg = s.cfg := rfl
@[simp] theorem State.callHandler_rxbuf (hid : Tag) (bytes : ByteSeq) (s : State) : (s.callHandler hid bytes).rxbuf = s.rxbuf := rfl
@[simp] theorem State.callHandler_cursor (hid : Tag) (bytes : ByteSeq) (s : State) : (s.callHandler hid bytes).cursor = s.cursor := rfl
@[simp] theorem State.callHandler_ovf (hid : Tag) (bytes : ByteSeq) (s : State) : (s.callHandler hid bytes).ovf = s.ovf := rfl
@[simp] theorem State.callHandler_hnd (hid : Tag) (bytes : ByteSeq) (s : State) : (s.callHandler hid bytes).hnd = s.hnd := rfl
@[simp] theorem State.callHandler_rxq (hid : Tag) (bytes : ByteSeq) (s : State) : (s.callHandler hid bytes).rxq = s.rxq := rfl
@[simp] theorem State.callHandler_txq (hid : Tag) (bytes : ByteSeq) (s : State) : (s.callHandler hid bytes).txq = s.txq := rfl
@[simp] theorem State.callHandler_pkt (hid : Tag) (bytes : ByteSeq) (s : State) : (s.callHandler hid bytes).pkt = s.pkt := rfl
@[simp] theorem State.callHandler_results (hid : Tag) (bytes : ByteSeq) (s : State) : (s.callHandler hid bytes).results = s.results := rfl
@[simp] theorem State.callHandler_arrivals (hid : Tag) (bytes : ByteSeq) (s : State) : (s.callHandler hid bytes).arrivals = s.arrivals := rfl
@[simp] theorem State.callHandler_arrivalsThen (hid : Tag) (bytes : ByteSeq) (s : State) : (s.callHandler hid bytes).arrivalsThen = s.arrivalsThen := rfl
@[simp] theorem State.callHandler_replies (hid : Tag) (bytes : ByteSeq) (s : State) : (s.callHandler hid bytes).replies = s.replies.tail := rfl
@[simp] theorem State.callHandler_handlers (hid : Tag) (bytes : ByteSeq) (s : State) : (s.callHandler hid bytes).handlers = s.handlers := rfl
@[simp] theorem State.callHandler_hostVars (hid : Tag) (bytes : ByteSeq) (s : State) : (s.callHandler hid bytes).hostVars = s.handlerVars hid bytes := rfl

/-! ### `dispatch` -/

@[simp] theorem State.dispatch_cfg (hid : Tag) (bytes : ByteSeq) (s : State) : (s.dispatch hid bytes).cfg = s.cfg := rfl
@[simp] theorem State.dispatch_rxbuf (hid : Tag) (bytes : ByteSeq) (s : State) : (s.dispatch hid bytes).rxbuf = s.rxbuf := rfl
@[simp] theorem State.dispatch_cursor (hid : Tag) (bytes : ByteSeq) (s : State) : (s.dispatch hid bytes).cursor = s.cursor := rfl
@[simp] theorem State.dispatch_ovf (hid : Tag) (bytes : ByteSeq) (s : State) : (s.dispatch hid bytes).ovf = s.ovf := rfl
@[simp] theorem State.dispatch_hnd (hid : Tag) (bytes : ByteSeq) (s : State) : (s.dispatch hid bytes).hnd = s.hnd := rfl
@[simp] theorem State.dispatch_rxq (hid : Tag) (bytes : ByteSeq) (s : State) : (s.dispatch hid bytes).rxq = s.rxq := rfl
@[simp] theorem State.dispatch_txq (hid : Tag) (bytes : ByteSeq) (s : State) : (s.dispatch hid bytes).txq = s.txq := rfl
@[simp] theorem State.dispatch_pkt (hid : Tag) (bytes : ByteSeq) (s : State) : (s.dispatch hid bytes).pkt = s.pkt ++ [⟨hid, bytes⟩] := rfl
@[simp] theorem State.dispatch_results (hid : Tag) (bytes : ByteSeq) (s : State) : (s.dispatch hid bytes).results = s.results := rfl
@[simp] theorem State.dispatch_arrivals (hid : Tag) (bytes : ByteSeq) (s : State) : (s.dispatch hid bytes).arrivals = s.arrivals := rfl
@[simp] theorem State.dispatch_arrivalsThen (hid : Tag) (bytes : ByteSeq) (s : State) : (s.dispatch hid bytes).arrivalsThen = s.arrivalsThen := rfl
@[simp] theorem State.dispatch_replies (hid : Tag) (bytes : ByteSeq) (s : State) : (s.dispatch hid bytes).replies = s.replies.tail := rfl
@[simp] theorem State.dispatch_handlers (hid : Tag) (bytes : ByteSeq) (s : State) : (s.dispatch hid bytes).handlers = s.handlers := rfl
@[simp] theorem State.dispatch_hostVars (hid : Tag) (bytes : ByteSeq) (s : State) : (s.dispatch hid bytes).hostVars = s.handlerVars hid bytes := rfl

/-! ### The control stack after a dispatch -/

/-- What a dispatch leaves in `calls`. -/
theorem State.callHandler_calls (hid : Tag) (bytes : ByteSeq) (s : State) :
    (s.callHandler hid bytes).calls = (match s.handlerLines hid bytes with
      | [] => s.calls
      | line :: lines => .host (line :: lines) :: s.calls) := rfl

@[simp] theorem State.dispatch_calls (hid : Tag) (bytes : ByteSeq) (s : State) :
    (s.dispatch hid bytes).calls = (s.callHandler hid bytes).calls := rfl

/-! ### `arrive` -/

@[simp] theorem State.arrive_cfg (s : State) : s.arrive.cfg = s.cfg := by
  unfold State.arrive; split <;> rfl

@[simp] theorem State.arrive_rxbuf (s : State) : s.arrive.rxbuf = s.rxbuf := by
  unfold State.arrive; split <;> rfl

@[simp] theorem State.arrive_cursor (s : State) : s.arrive.cursor = s.cursor := by
  unfold State.arrive; split <;> rfl

@[simp] theorem State.arrive_ovf (s : State) : s.arrive.ovf = s.ovf := by
  unfold State.arrive; split <;> rfl

@[simp] theorem State.arrive_hnd (s : State) : s.arrive.hnd = s.hnd := by
  unfold State.arrive; split <;> rfl

@[simp] theorem State.arrive_txq (s : State) : s.arrive.txq = s.txq := by
  unfold State.arrive; split <;> rfl

@[simp] theorem State.arrive_pkt (s : State) : s.arrive.pkt = s.pkt := by
  unfold State.arrive; split <;> rfl

@[simp] theorem State.arrive_results (s : State) : s.arrive.results = s.results := by
  unfold State.arrive; split <;> rfl

@[simp] theorem State.arrive_calls (s : State) : s.arrive.calls = s.calls := by
  unfold State.arrive; split <;> rfl

@[simp] theorem State.arrive_arrivalsThen (s : State) : s.arrive.arrivalsThen = s.arrivalsThen := by
  unfold State.arrive; split <;> rfl

@[simp] theorem State.arrive_replies (s : State) : s.arrive.replies = s.replies := by
  unfold State.arrive; split <;> rfl

@[simp] theorem State.arrive_handlers (s : State) : s.arrive.handlers = s.handlers := by
  unfold State.arrive; split <;> rfl

@[simp] theorem State.arrive_hostVars (s : State) : s.arrive.hostVars = s.hostVars := by
  unfold State.arrive; split <;> rfl

/-- Arrivals only lengthen `RXQ`. -/
theorem State.arrive_rxq (s : State) : ∃ bytes, s.arrive.rxq = s.rxq ++ bytes := by
  unfold State.arrive; split <;> exact ⟨_, rfl⟩

/-- An environment that appends nothing changes nothing. -/
theorem State.arrive_of_nothing {s : State} (h : s.arrivals = [])
    (h' : s.arrivalsThen = []) : s.arrive = s := by
  cases s
  simp only at h h'
  subst h; subst h'
  simp [State.arrive]

@[simp] theorem State.arrive_withCalls (calls : List Activity) (s : State) :
    (s.withCalls calls).arrive = s.arrive.withCalls calls := by
  simp only [State.arrive, State.withCalls_arrivals]; split <;> rfl

@[simp] theorem State.withCalls_withCalls (calls calls' : List Activity) (s : State) :
    (s.withCalls calls).withCalls calls' = s.withCalls calls' := rfl

/-! ### `resetWith` -/

@[simp] theorem State.resetWith_cfg (c : Config) : (State.resetWith c).cfg = c := rfl
@[simp] theorem State.resetWith_rxbuf (c : Config) : (State.resetWith c).rxbuf = [] := rfl
@[simp] theorem State.resetWith_cursor (c : Config) : (State.resetWith c).cursor = 0 := rfl
@[simp] theorem State.resetWith_ovf (c : Config) : (State.resetWith c).ovf = false := rfl
@[simp] theorem State.resetWith_hnd (c : Config) : (State.resetWith c).hnd = none := rfl
@[simp] theorem State.resetWith_rxq (c : Config) : (State.resetWith c).rxq = [] := rfl
@[simp] theorem State.resetWith_txq (c : Config) : (State.resetWith c).txq = [] := rfl
@[simp] theorem State.resetWith_pkt (c : Config) : (State.resetWith c).pkt = [] := rfl
@[simp] theorem State.resetWith_results (c : Config) : (State.resetWith c).results = [] := rfl
@[simp] theorem State.resetWith_calls (c : Config) : (State.resetWith c).calls = [] := rfl
@[simp] theorem State.resetWith_arrivals (c : Config) : (State.resetWith c).arrivals = [] := rfl
@[simp] theorem State.resetWith_arrivalsThen (c : Config) : (State.resetWith c).arrivalsThen = [] := rfl
@[simp] theorem State.resetWith_replies (c : Config) : (State.resetWith c).replies = [] := rfl
@[simp] theorem State.resetWith_handlers (c : Config) : (State.resetWith c).handlers = [] := rfl
@[simp] theorem State.resetWith_hostVars (c : Config) : (State.resetWith c).hostVars = 0 := rfl

end Sys2Proof.Machine
end

