-- ==== Sys2Proof/Laws/Machine.lean ====
section
/-! SUPPORT. What the shared operations, the meanings and the step can do, each said once. -/

namespace Sys2Proof.Machine

/-! ### Lengths and configurations -/

theorem fits_iff (c : Config) (n : Nat) : fits c.lenw n = true ↔ LengthFits c n := by
  unfold fits LengthFits
  cases c.lenw <;> simp

theorem fits_false_iff (c : Config) (n : Nat) :
    fits c.lenw n = false ↔ ∃ w, c.lenw = some w ∧ 2 ^ w ≤ n := by
  unfold fits
  cases c.lenw <;> simp

theorem LengthFits.mono {c : Config} {m n : Nat} (h : LengthFits c n) (hm : m ≤ n) :
    LengthFits c m := fun w hw => Nat.lt_of_le_of_lt hm (h w hw)

theorem config_wf_iff (c : Config) :
    c.wf = true ↔ 2 ≤ c.capacity ∧ LengthFits c c.capacity := by
  simp [Config.wf, fits_iff]

/-! ### Results of the codec operations -/

theorem answerSeq_of_fits {src dst : ByteSeq} {s : State} (h : LengthFits s.cfg src.length)
    (h' : LengthFits s.cfg dst.length) : answerSeq src dst s = .next (s.answer (.seq dst)) := by
  simp [answerSeq, (fits_iff _ _).2 h, (fits_iff _ _).2 h']

theorem answerNat_of_fits {n r : Nat} {s : State} (h : LengthFits s.cfg n)
    (h' : LengthFits s.cfg r) : answerNat n r s = .next (s.answer (.nat r)) := by
  simp [answerNat, (fits_iff _ _).2 h, (fits_iff _ _).2 h']

theorem answerSeq_cases {src dst : ByteSeq} {s t : State} (h : answerSeq src dst s = .next t) :
    LengthFits s.cfg src.length ∧ LengthFits s.cfg dst.length ∧ t = s.answer (.seq dst) := by
  unfold answerSeq at h
  split at h
  · rename_i hf
    simp only [Bool.and_eq_true, fits_iff] at hf
    cases h
    exact ⟨hf.1, hf.2, rfl⟩
  · cases h

theorem answerNat_cases {n r : Nat} {s t : State} (h : answerNat n r s = .next t) :
    LengthFits s.cfg n ∧ LengthFits s.cfg r ∧ t = s.answer (.nat r) := by
  unfold answerNat at h
  split at h
  · rename_i hf
    simp only [Bool.and_eq_true, fits_iff] at hf
    cases h
    exact ⟨hf.1, hf.2, rfl⟩
  · cases h

theorem answerSeq_refused {src dst : ByteSeq} {s : State}
    (h : fits s.cfg.lenw src.length = false ∨ fits s.cfg.lenw dst.length = false) :
    answerSeq src dst s = .refused .lengthDoesNotFit := by
  unfold answerSeq
  rcases h with h | h <;> simp [h]

theorem answerNat_refused {n r : Nat} {s : State}
    (h : fits s.cfg.lenw n = false ∨ fits s.cfg.lenw r = false) :
    answerNat n r s = .refused .lengthDoesNotFit := by
  unfold answerNat
  rcases h with h | h <;> simp [h]

/-! ### One received byte -/

theorem hasRoom_iff (cursor capacity : Nat) : hasRoom cursor capacity = true ↔ cursor + 1 < capacity := by
  simp [hasRoom]

theorem rxStore_room {b : Byte} {s : State} (h : s.cursor + 1 < s.cfg.capacity) :
    rxStore b s = .next (s.stored (Memory.write s.rxbuf s.cursor b)) := by
  simp [rxStore, hasRoom, h, memWrite_of_lt (show s.cursor < s.cfg.capacity by omega)]

theorem rxStore_full {b : Byte} {s : State} (h : s.cfg.capacity ≤ s.cursor + 1) :
    rxStore b s = .next s.dropped := by
  simp [rxStore, hasRoom, Nat.not_lt.2 h]

theorem rxMarker_none {s : State} (h : s.hnd = none) : rxMarker s = .next s.clear := by
  simp [rxMarker, h]

theorem rxMarker_some {s : State} {hid : Tag} {frame : ByteSeq} (h : s.hnd = some hid)
    (hf : s.frame = .ok frame) :
    rxMarker s = .next (s.clear.dispatch hid (decodeFrame s.cfg frame).bytes) := by
  simp [rxMarker, h, hf]

/-- Everything a consumed byte can do when it goes on. -/
theorem rxConsume_cases {b : Byte} {s t : State} (h : rxConsume b s = .next t) :
    (b = s.cfg.marker ∧ s.hnd = none ∧ t = s.clear) ∨
    (∃ hid frame, b = s.cfg.marker ∧ s.hnd = some hid ∧ s.frame = .ok frame ∧
      t = s.clear.dispatch hid (decodeFrame s.cfg frame).bytes) ∨
    (b ≠ s.cfg.marker ∧ s.cursor + 1 < s.cfg.capacity ∧
      t = s.stored (Memory.write s.rxbuf s.cursor b)) ∨
    (b ≠ s.cfg.marker ∧ s.cfg.capacity ≤ s.cursor + 1 ∧ t = s.dropped) := by
  unfold rxConsume at h
  split at h
  · rename_i hb
    unfold rxMarker at h
    split at h
    · rename_i hh; cases h; exact .inl ⟨hb, hh, rfl⟩
    · rename_i hid hh
      split at h
      · cases h
      · rename_i frame hf; cases h; exact .inr (.inl ⟨hid, frame, hb, hh, hf, rfl⟩)
  · rename_i hb
    by_cases hr : s.cursor + 1 < s.cfg.capacity
    · rw [rxStore_room hr] at h; cases h; exact .inr (.inr (.inl ⟨hb, hr, rfl⟩))
    · rw [rxStore_full (Nat.not_lt.1 hr)] at h
      cases h; exact .inr (.inr (.inr ⟨hb, Nat.not_lt.1 hr, rfl⟩))

/-- A byte stops the machine only where the frame cannot be read. -/
theorem rxConsume_next {b : Byte} {s : State} (h : ∃ frame, s.frame = .ok frame) :
    ∃ t, rxConsume b s = .next t := by
  obtain ⟨frame, hf⟩ := h
  unfold rxConsume
  split
  · cases hh : s.hnd with
    | none => exact ⟨_, rxMarker_none hh⟩
    | some hid => exact ⟨_, rxMarker_some hh hf⟩
  · by_cases hr : s.cursor + 1 < s.cfg.capacity
    · exact ⟨_, rxStore_room hr⟩
    · exact ⟨_, rxStore_full (Nat.not_lt.1 hr)⟩

/-- The frame depends only on the block's own buffer, cursor and capacity. -/
theorem State.frame_congr {s t : State} (hc : t.cfg = s.cfg) (hb : t.rxbuf = s.rxbuf)
    (hr : t.cursor = s.cursor) : t.frame = s.frame := by
  simp [State.frame, hc, hb, hr]

/-! ### Meanings -/

/-- Everything an operation other than the two receive operations can do when it goes on. -/
theorem exec_cases {i : Instr} {s t : State} (h : exec i s = .next t)
    (hb : ∀ b, i ≠ .rxByte b) (hd : i ≠ .rxDrain) :
    (∃ r, t = s.answer r ∧ ((∃ src, i = .cobsEnc src) ∨ (∃ src, i = .cobsDec src) ∨
      (∃ n, i = .cobsMax n) ∨ (∃ src, i = .slipEnc src) ∨ (∃ src, i = .slipDec src) ∨
      (∃ n, i = .slipMax n) ∨ i = .rxOvf)) ∨
    (∃ v, i = .setHandler v ∧ t = s.setHnd v) ∨
    (∃ p, i = .txSend p ∧ ∃ bytes, t = s.emitTx bytes) ∨
    (i = .reset ∧ t = { s with rxbuf := [], cursor := 0, ovf := false, hnd := none }) := by
  cases i with
  | cobsEnc src => exact .inl ⟨_, (answerSeq_cases h).2.2, .inl ⟨_, rfl⟩⟩
  | cobsDec src => exact .inl ⟨_, (answerSeq_cases h).2.2, .inr (.inl ⟨_, rfl⟩)⟩
  | cobsMax n => exact .inl ⟨_, (answerNat_cases h).2.2, .inr (.inr (.inl ⟨_, rfl⟩))⟩
  | slipEnc src => exact .inl ⟨_, (answerSeq_cases h).2.2, .inr (.inr (.inr (.inl ⟨_, rfl⟩)))⟩
  | slipDec src =>
    exact .inl ⟨_, (answerSeq_cases h).2.2, .inr (.inr (.inr (.inr (.inl ⟨_, rfl⟩))))⟩
  | slipMax n =>
    exact .inl ⟨_, (answerNat_cases h).2.2, .inr (.inr (.inr (.inr (.inr (.inl ⟨_, rfl⟩)))))⟩
  | rxByte b => exact absurd rfl (hb b)
  | rxDrain => exact absurd rfl hd
  | rxOvf =>
    cases h
    exact .inl ⟨_, rfl, .inr (.inr (.inr (.inr (.inr (.inr rfl)))))⟩
  | setHandler v => cases h; exact .inr (.inl ⟨v, rfl, rfl⟩)
  | txSend p =>
    refine .inr (.inr (.inl ⟨p, rfl, ?_⟩))
    simp only [exec, execTxSend] at h
    split at h
    · cases h
    · split at h
      · cases h; exact ⟨[], by cases s; simp [State.emitTx]⟩
      · split at h
        · cases h; exact ⟨_, rfl⟩
        · cases h
  | reset => cases h; exact .inr (.inr (.inr ⟨rfl, rfl⟩))

/-- Everything `RX_DRAIN` can do when it goes on. -/
theorem execRxDrain_cases {s t : State} (h : execRxDrain s = .next t) :
    (s.rxq = [] ∧ t = s) ∨
    (∃ b rest, s.rxq = b :: rest ∧ rxConsume b (s.drainPop rest) = .next t) := by
  unfold execRxDrain at h
  split at h
  · rename_i hq; cases h; exact .inl ⟨hq, rfl⟩
  · rename_i b rest hq; exact .inr ⟨b, rest, hq, h⟩

/-! ### The step -/

/-- A quiet turn changes only `RXQ` and the control stack. -/
theorem turn_quiet {s t : State} (h : s.turn = .quiet t) :
    t = { s with rxq := t.rxq, calls := t.calls } := by
  unfold State.turn at h
  split at h
  · cases h; rfl
  · cases h
  · cases h; rfl
  · cases h; rfl
  · cases h

/-- An issued request is performed in the state with the rest of the list to come. -/
theorem turn_issue {s t : State} {r : Request} (h : s.turn = .issue r t) :
    ∃ lines outer, s.calls = .host (.op r :: lines) :: outer ∧
      t = s.withCalls (.host lines :: outer) := by
  unfold State.turn at h
  split at h <;> cases h
  rename_i lines outer hc
  exact ⟨lines, outer, hc, rfl⟩

/-- A suspended drain goes on in the state without it. -/
theorem turn_drain {s t : State} (h : s.turn = .drain t) :
    ∃ outer, s.calls = .drain :: outer ∧ t = s.withCalls outer := by
  unfold State.turn at h
  split at h <;> cases h
  rename_i outer hc
  exact ⟨outer, hc, rfl⟩

/-- Everything a step can do when it goes on: no operation, which changes only `RXQ`, the control
stack and the arrivals; or one operation, performed in a state that differs from the one before the
step only there. -/
theorem step_cases {s t : State} (h : step s = .next t) :
    s.cfg.wf = true ∧
    (t = { s with rxq := t.rxq, calls := t.calls, arrivals := t.arrivals } ∨
    ∃ i u, exec i u = .next t ∧
      u = { s with rxq := u.rxq, calls := u.calls, arrivals := u.arrivals }) := by
  have harr : ∀ (u : State), u = { s.arrive with rxq := u.rxq, calls := u.calls } →
      u = { s with rxq := u.rxq, calls := u.calls, arrivals := u.arrivals } := by
    intro u hu
    rw [hu]
    unfold State.arrive
    split <;> rfl
  unfold step at h
  split at h
  · rename_i hwf
    refine ⟨hwf, ?_⟩
    cases ht : s.arrive.turn with
    | quiet u =>
      rw [ht] at h
      cases h
      exact .inl (harr _ (turn_quiet ht))
    | issue r u =>
      rw [ht] at h
      obtain ⟨lines, outer, _, rfl⟩ := turn_issue ht
      simp only [runTurn] at h
      split at h
      · exact .inr ⟨_, _, h, harr _ rfl⟩
      · cases h
    | drain u =>
      rw [ht] at h
      obtain ⟨outer, _, rfl⟩ := turn_drain ht
      exact .inr ⟨.rxDrain, s.arrive.withCalls outer, h, harr _ rfl⟩
  · cases h

/-! ### The handler that issues nothing -/

/-- No entry issues anything when none has lines. -/
theorem handlerEntry_nil {handlers : List (Tag × HandlerRule)}
    (h : ∀ e ∈ handlers, e.2 = .lines []) (hid : Tag) : handlerEntry handlers hid = .lines [] := by
  induction handlers with
  | nil => rfl
  | cons e rest ih =>
    simp only [handlerEntry]
    split
    · exact h e (List.mem_cons_self ..)
    · exact ih fun e he => h e (List.mem_cons_of_mem _ he)

/-- Under a quiet handler a dispatch calls nothing and leaves the host's variables as they were. -/
theorem State.Quiet.handlerCall_nil {s : State} (h : s.Quiet) (hid : Tag) (bytes : ByteSeq) :
    s.handlerCall hid bytes = ([], s.hostVars) := by
  unfold State.handlerCall
  cases hr : s.replies with
  | cons lines rest => simp [h.1 lines (by simp [hr])]
  | nil => simp [handlerEntry_nil h.2 hid, HandlerRule.call]

theorem State.Quiet.handlerLines_nil {s : State} (h : s.Quiet) (hid : Tag) (bytes : ByteSeq) :
    s.handlerLines hid bytes = [] := by
  rw [State.handlerLines, h.handlerCall_nil]

theorem State.Quiet.handlerVars_eq {s : State} (h : s.Quiet) (hid : Tag) (bytes : ByteSeq) :
    s.handlerVars hid bytes = s.hostVars := by
  rw [State.handlerVars, h.handlerCall_nil]

/-- Under a quiet handler a dispatch leaves the control stack as it was. -/
theorem State.Quiet.callHandler_calls {s : State} (h : s.Quiet) (hid : Tag)
    (bytes : ByteSeq) : (s.callHandler hid bytes).calls = s.calls := by
  rw [State.callHandler_calls, h.handlerLines_nil hid bytes]

/-- Under a quiet handler a dispatch is the event and the use of one reply. -/
theorem State.Quiet.dispatch_eq {s : State} (h : s.Quiet) (hid : Tag) (bytes : ByteSeq) :
    s.dispatch hid bytes = { s.emitPkt hid bytes with replies := s.replies.tail } := by
  have h' : (s.emitPkt hid bytes).Quiet := h
  simp only [State.dispatch, State.callHandler, h'.handlerLines_nil, h'.handlerVars_eq]
  rfl

/-- What the host does at a dispatch depends, beside the event, only on the replies, the handlers, the
host's variables and the results. -/
theorem State.handlerCall_congr {s t : State} (hr : t.replies = s.replies)
    (hh : t.handlers = s.handlers) (hv : t.hostVars = s.hostVars) (hs : t.results = s.results)
    (hid : Tag) (bytes : ByteSeq) : t.handlerCall hid bytes = s.handlerCall hid bytes := by
  simp [State.handlerCall, hr, hh, hv, hs]

/-- A handler whose lines are written down issues them, with the packet's bytes filled in. -/
theorem State.handlerLines_of_lines {s : State} {hid : Tag} {ls : List HandlerLine}
    (hr : s.replies = []) (he : handlerEntry s.handlers hid = .lines ls) (bytes : ByteSeq) :
    s.handlerLines hid bytes = ls.map (HandlerLine.issued bytes) := by
  simp [State.handlerLines, State.handlerCall, hr, he, HandlerRule.call]

/-- A free handler does what the function that nothing constrains says. -/
theorem State.handlerCall_of_free {s : State} {hid : Tag} (hr : s.replies = [])
    (he : handlerEntry s.handlers hid = .free) (bytes : ByteSeq) :
    s.handlerCall hid bytes = Config.freeHandler s.hostVars s.results hid bytes := by
  simp [State.handlerCall, hr, he, HandlerRule.call]

end Sys2Proof.Machine
end

