-- ==== Sys2Proof/Laws/Invariant.lean ====
section
/-! SUPPORT. The invariant of the reachable states, update by update. -/

namespace Sys2Proof.Machine

/-- The invariant is about the block's own fields. -/
theorem State.Inv.congr {s t : State} (h : s.Inv) (hc : t.cfg = s.cfg) (hb : t.rxbuf = s.rxbuf)
    (hr : t.cursor = s.cursor) (ho : t.ovf = s.ovf) : t.Inv where
  cfg_wf := by rw [hc]; exact h.cfg_wf
  rxbuf_wf := by rw [hb]; exact h.rxbuf_wf
  last_unwritten := by rw [hb, hc]; exact h.last_unwritten
  cursor_le := by rw [hr, hc]; exact h.cursor_le
  ovf_full := by rw [ho, hr, hc]; exact h.ovf_full
  frame_written := by rw [hr, hb, hc]; exact h.frame_written

theorem State.Inv.capacity_ge {s : State} (h : s.Inv) : 2 ≤ s.cfg.capacity :=
  ((config_wf_iff _).1 h.cfg_wf).1

theorem State.Inv.clear {s : State} (h : s.Inv) : s.clear.Inv where
  cfg_wf := h.cfg_wf
  rxbuf_wf := h.rxbuf_wf
  last_unwritten := h.last_unwritten
  cursor_le := by have := h.capacity_ge; simp; omega
  ovf_full := by simp
  frame_written := by simp

theorem State.Inv.dispatch {s : State} (h : s.Inv) (hid : Tag) (bytes : ByteSeq) :
    (s.dispatch hid bytes).Inv := h.congr rfl rfl rfl rfl

theorem State.Inv.stored {s : State} (h : s.Inv) (hr : s.cursor + 1 < s.cfg.capacity) {b : Byte}
    (hb : b ≠ s.cfg.marker) : (s.stored (Memory.write s.rxbuf s.cursor b)).Inv where
  cfg_wf := h.cfg_wf
  rxbuf_wf := Memory.wf_write h.rxbuf_wf _ _
  last_unwritten := by
    intro c hc
    rcases Memory.mem_write hc with rfl | hc
    · exact hr
    · exact h.last_unwritten c hc
  cursor_le := hr
  ovf_full := by
    intro ho
    have := h.ovf_full ho
    omega
  frame_written := by
    intro i hi
    simp only [State.stored_cursor] at hi
    by_cases he : i = s.cursor
    · subst he; exact ⟨b, by simp, hb⟩
    · obtain ⟨c, hc, hm⟩ := h.frame_written i (by omega)
      exact ⟨c, by simp [Memory.read_write_other _ _ he, hc], hm⟩

theorem State.Inv.dropped {s : State} (h : s.Inv) (hr : s.cfg.capacity ≤ s.cursor + 1) :
    s.dropped.Inv where
  cfg_wf := h.cfg_wf
  rxbuf_wf := h.rxbuf_wf
  last_unwritten := h.last_unwritten
  cursor_le := h.cursor_le
  ovf_full := fun _ => Nat.le_antisymm h.cursor_le hr
  frame_written := h.frame_written

theorem State.Inv.rxConsume {s t : State} (h : s.Inv) {b : Byte}
    (ht : rxConsume b s = .next t) : t.Inv := by
  rcases rxConsume_cases ht with ⟨-, -, rfl⟩ | ⟨hid, frame, -, -, -, rfl⟩ | ⟨hb, hr, rfl⟩ |
    ⟨-, hr, rfl⟩
  · exact h.clear
  · exact h.clear.dispatch _ _
  · exact h.stored hr hb
  · exact h.dropped hr

/-- Under the invariant the frame can be read. -/
theorem State.Inv.frame_ok {s : State} (h : s.Inv) : ∃ frame, s.frame = .ok frame :=
  memReadRange_readable (Nat.le_of_succ_le h.cursor_le) fun i hi =>
    (h.frame_written i hi).imp fun _ hb => hb.1

end Sys2Proof.Machine
end

