-- ==== Sys2Proof/Laws/PerInstr.lean ====
section
/-! SUPPORT. Laws about every operation as syntax, one lemma per constructor. -/

namespace Sys2Proof.Laws.EncodedWord

open Sys2Proof.Machine

/-- The word the encoder writes has `rsv = 0` and an `opc` that is not reserved (30_encoding.md R90,
R96). -/
def Statement (i : Instr) : Prop :=
  rsvField (encode i).word = 0 ∧ opcField (encode i).word ≠ 0x0 ∧ opcField (encode i).word ≠ 0x7 ∧
    opcField (encode i).word ≠ 0xD ∧ opcField (encode i).word ≠ 0xE

/-- A word with an `opc` that is not reserved is as the statement says, whatever its `imm8`. -/
theorem of_opWord {o : BitVec 4} (h0 : o ≠ 0x0) (h7 : o ≠ 0x7) (hD : o ≠ 0xD) (hE : o ≠ 0xE)
    (b : Byte) :
    rsvField (opWord o b) = 0 ∧ opcField (opWord o b) ≠ 0x0 ∧ opcField (opWord o b) ≠ 0x7 ∧
      opcField (opWord o b) ≠ 0xD ∧ opcField (opWord o b) ≠ 0xE := by
  rw [rsvField_opWord, opcField_opWord]
  exact ⟨rfl, h0, h7, hD, hE⟩

theorem cobsEnc (src : ByteSeq) : Statement (.cobsEnc src) :=
  of_opWord (by decide) (by decide) (by decide) (by decide) _

theorem cobsDec (src : ByteSeq) : Statement (.cobsDec src) :=
  of_opWord (by decide) (by decide) (by decide) (by decide) _

theorem cobsMax (n : Nat) : Statement (.cobsMax n) :=
  of_opWord (by decide) (by decide) (by decide) (by decide) _

theorem slipEnc (src : ByteSeq) : Statement (.slipEnc src) :=
  of_opWord (by decide) (by decide) (by decide) (by decide) _

theorem slipDec (src : ByteSeq) : Statement (.slipDec src) :=
  of_opWord (by decide) (by decide) (by decide) (by decide) _

theorem slipMax (n : Nat) : Statement (.slipMax n) :=
  of_opWord (by decide) (by decide) (by decide) (by decide) _

theorem rxByte (b : Byte) : Statement (.rxByte b) :=
  of_opWord (by decide) (by decide) (by decide) (by decide) _

theorem rxDrain : Statement .rxDrain :=
  of_opWord (by decide) (by decide) (by decide) (by decide) _

theorem rxOvf : Statement .rxOvf :=
  of_opWord (by decide) (by decide) (by decide) (by decide) _

theorem setHandler (v : Option Tag) : Statement (.setHandler v) :=
  of_opWord (by decide) (by decide) (by decide) (by decide) _

theorem txSend (p : ByteSeq) : Statement (.txSend p) :=
  of_opWord (by decide) (by decide) (by decide) (by decide) _

theorem reset : Statement .reset :=
  of_opWord (by decide) (by decide) (by decide) (by decide) _

end Sys2Proof.Laws.EncodedWord
end

