-- ==== Sys2Proof/Tests/Slice0.lean ====
section
/-! SUPPORT. Tests of the model, each with the vector of spec/95_test_vectors.md (or the rule's own
example) its expected result comes from, and for every statement with hypotheses a concrete state and
operands that meet them. -/

namespace Sys2Proof.Tests

open Sys2Proof.Machine

/-! ### Helpers -/

/-- The state of an answer that goes on. -/
def nextOf : Answer → Option State
  | .next s => some s
  | .fault _ => none
  | .refused _ => none

/-- The refusal of an answer that is one. -/
def refusalOf : Answer → Option Refusal
  | .refused r => some r
  | .next _ => none
  | .fault _ => none

/-- The operation a decode gives. -/
def okOf : Except DecodeError Instr → Option Instr
  | .ok i => some i
  | .error _ => none

/-- The name of a decode's rejection. -/
def errorOf : Except DecodeError Instr → Option DecodeError
  | .ok _ => none
  | .error why => some why

/-- COBS with a given capacity. -/
def cobsOf (capacity : Nat) : Config := { Config.ofCodec .cobs with capacity := capacity }

/-- COBS with a given capacity and a finite `LENW`. -/
def cobsLen (capacity lenw : Nat) : Config := { cobsOf capacity with lenw := some lenw }

/-- A fresh instance with a handler registered. -/
def withHandler (c : Config) : State := { State.resetWith c with hnd := some 1 }

/-- An instance with a handler and these bytes buffered. -/
def buffered (c : Config) (bytes : ByteSeq) : State :=
  { withHandler c with
    rxbuf := bytes.zipIdx.map (fun p => (p.2, p.1))
    cursor := bytes.length }

/-- An instance about to issue a request. -/
def issuing (c : Config) (r : Request) : State :=
  { State.resetWith c with calls := [.host [.op r]] }

/-- A test of the invariant that `decide` can run. -/
def invCheck (s : State) : Bool :=
  s.cfg.wf && Memory.wf s.rxbuf && s.rxbuf.all (fun c => decide (c.1 + 1 < s.cfg.capacity)) &&
    decide (s.cursor + 1 ≤ s.cfg.capacity) &&
    (!s.ovf || decide (s.cursor + 1 = s.cfg.capacity)) &&
    (List.range s.cursor).all (fun i =>
      (Memory.read s.rxbuf i).any (fun b => decide (b ≠ s.cfg.marker)))

theorem inv_of_check {s : State} (h : invCheck s = true) : s.Inv := by
  simp only [invCheck, Bool.and_eq_true, decide_eq_true_eq, List.all_eq_true, List.mem_range,
    Option.any_eq_true, Bool.or_eq_true, Bool.not_eq_true'] at h
  obtain ⟨⟨⟨⟨⟨h1, h2⟩, h3⟩, h4⟩, h5⟩, h6⟩ := h
  exact ⟨h1, h2, h3, h4, fun ho => h5.resolve_left (by simp [ho]), h6⟩

/-! ### Well-formedness: one ill-formed term for each check -/

/-- R10: `CAPACITY = 1`. -/
theorem test_wf_capacity_one : (cobsOf 1).wf = false := by decide

/-- R10: `CAPACITY = 256` with `LENW = 8`. -/
theorem test_wf_capacity_lenw : (cobsLen 256 8).wf = false := by decide

/-- R10: `CAPACITY = 255` with `LENW = 8` is well formed. -/
theorem test_wf_capacity_fits : (cobsLen 255 8).wf = true := by decide

/-- R93: a sequence operand of 4 bytes with `LENW = 2`, in every operation that takes one. -/
theorem test_wf_sequence_operands :
    [Instr.cobsEnc [1, 2, 3, 4], .cobsDec [1, 2, 3, 4], .slipEnc [1, 2, 3, 4],
      .slipDec [1, 2, 3, 4], .txSend [1, 2, 3, 4]].map (Instr.wf (cobsLen 3 2)) =
    [false, false, false, false, false] := by decide

/-- R93: the number 4 with `LENW = 2`, in both operations that take one. -/
theorem test_wf_number_operands :
    [Instr.cobsMax 4, .slipMax 4].map (Instr.wf (cobsLen 3 2)) = [false, false] := by decide

/-! ### Operation words (Part 2 section 1) -/

/-- V-OP-1, V-OP-2, V-OP-3: opc 1, 2, 3 in bits 15:12. -/
theorem test_decode_cobs_words :
    [0x1000, 0x2000, 0x3000].map (fun w => okOf (decode ⟨w, [0x11], 5⟩)) =
    [some (.cobsEnc [0x11]), some (.cobsDec [0x11]), some (.cobsMax 5)] := by decide

/-- V-OP-4, V-OP-5, V-OP-6. -/
theorem test_decode_slip_words :
    [0x4000, 0x5000, 0x6000].map (fun w => okOf (decode ⟨w, [0x11], 5⟩)) =
    [some (.slipEnc [0x11]), some (.slipDec [0x11]), some (.slipMax 5)] := by decide

/-- V-OP-7 to V-OP-11. -/
theorem test_decode_receive_words :
    [0x8011, 0x8000, 0x80FF, 0x9000, 0xA000].map (fun w => okOf (decode ⟨w, [], 0⟩)) =
    [some (.rxByte 0x11), some (.rxByte 0x00), some (.rxByte 0xFF), some .rxDrain,
      some .rxOvf] := by decide

/-- V-OP-12 to V-OP-15. -/
theorem test_decode_handler_words :
    [0xB081, 0xB0FF, 0xB080, 0xB000].map (fun w => okOf (decode ⟨w, [], 0⟩)) =
    [some (.setHandler (some 1)), some (.setHandler (some 127)), some (.setHandler (some 0)),
      some (.setHandler none)] := by decide

/-- V-OP-16, V-OP-17. -/
theorem test_decode_send_and_reset_words :
    [0xC000, 0xF000].map (fun w => okOf (decode ⟨w, [0xC0], 0⟩)) =
    [some (.txSend [0xC0]), some .reset] := by decide

/-- V-OP-18. -/
theorem test_decode_reserved_opcodes :
    [0x0000, 0x7000, 0xD000, 0xE000].map (fun w => errorOf (decode ⟨w, [], 0⟩)) =
    [some .reservedOpcode, some .reservedOpcode, some .reservedOpcode,
      some .reservedOpcode] := by decide

/-- V-OP-19, V-OP-20, V-OP-21. -/
theorem test_decode_illegal_fields :
    [0x8111, 0x9001, 0x1001, 0xF0FF, 0xB005].map (fun w => errorOf (decode ⟨w, [], 0⟩)) =
    [some .reservedBits, some .immediateNotZero, some .immediateNotZero, some .immediateNotZero,
      some .tagWithoutHandler] := by decide

/-- The table's numbering: bit 0 is the least significant bit of the one word. -/
theorem test_decode_table_words :
    [0x8011, 0xB081, 0x7000].map (decodeTableWord 16) =
    [some (.rxByte 0x11), some (.setHandler (some 1)), none] := by decide

/-- R98: `SET_HANDLER some(3)` and `TX_SEND [C0 05]`. -/
theorem test_spelling :
    spelling (.setHandler (some 3)) = "SET_HANDLER some(3)".toList ∧
    spelling (.txSend [0xC0, 0x05]) = "TX_SEND [C0 05]".toList ∧
    spelling (.rxByte 0x11) = "RX_BYTE 0x11".toList ∧
    spelling (.cobsMax 254) = "COBS_MAX 254".toList := by decide

/-! ### One step per operation -/

/-- V-CE-5. -/
theorem test_cobsEnc :
    (nextOf (exec (.cobsEnc [0x11, 0x22, 0x00, 0x33]) State.reset)).map State.results =
    some [.seq [0x03, 0x11, 0x22, 0x02, 0x33]] := by decide

/-- V-CE-12: 254 non-zero bytes close the group at once and a `[01]` group follows. -/
theorem test_cobsEnc_full_group :
    cobsEncode (List.replicate 254 0x07) =
    0xFF :: (List.replicate 254 0x07 ++ [0x01]) := by decide +kernel

/-- V-CD-12: the second code byte fails, the bytes so far are discarded. -/
theorem test_cobsDec_fails :
    (nextOf (exec (.cobsDec [0x03, 0x11, 0x22, 0x02]) State.reset)).map State.results =
    some [.seq []] := by decide

/-- V-CD-19: no zero after a 0xFF group. -/
theorem test_cobsDec_overhead :
    cobsDecode (0xFF :: (List.replicate 254 0x07 ++ [0x02, 0x09])) =
    .ok (List.replicate 254 0x07 ++ [0x09]) := by decide +kernel

/-- R118: `COBS_MAX 254 => 256`. -/
theorem test_cobsMax :
    (nextOf (exec (.cobsMax 254) State.reset)).map State.results = some [.nat 256] := by decide

/-- Part 2 section 2: with `LENW = 8`, `COBS_MAX 253 => 254` and `COBS_MAX 254` is refused. -/
theorem test_cobsMax_lenw :
    (nextOf (exec (.cobsMax 253) (State.resetWith (cobsLen 255 8)))).map State.results =
      some [.nat 254] ∧
    refusalOf (exec (.cobsMax 254) (State.resetWith (cobsLen 255 8))) =
      some .lengthDoesNotFit := by decide

/-- V-SE-8. -/
theorem test_slipEnc :
    (nextOf (exec (.slipEnc [0xC0, 0xDB, 0xC0]) State.reset)).map State.results =
    some [.seq [0xC0, 0xDB, 0xDC, 0xDB, 0xDD, 0xDB, 0xDC]] := by decide

/-- V-SD-9: the pair `DB DB` is dropped and 0xDC is then an ordinary byte. -/
theorem test_slipDec :
    (nextOf (exec (.slipDec [0xDB, 0xDB, 0xDC]) State.reset)).map State.results =
    some [.seq [0xDC]] := by decide

/-- V-SD-14: a trailing `ESC` under `DROP` and under `ZERO`. -/
theorem test_slipDec_trailing :
    slipDecode .drop [0xDB, 0xDC, 0xDB] = .ok [0xC0] ∧
    slipDecode .zero [0xDB, 0xDC, 0xDB] = .fail := by decide

/-- R140: `SLIP_MAX 254 => 510`. -/
theorem test_slipMax :
    (nextOf (exec (.slipMax 254) State.reset)).map State.results = some [.nat 510] := by decide

/-- P2, operation 8: the cut frame `[03 11 22]` is decoded at its marker, with `OVF` set before. -/
theorem test_rxByte_marker :
    (nextOf (exec (.rxByte 0x00)
      { buffered (cobsOf 4) [0x03, 0x11, 0x22] with ovf := true })).map
      (fun s => (s.cursor, s.ovf, s.pkt)) =
    some (0, false, [⟨1, [0x11, 0x22]⟩]) := by decide

/-- V-RX-7: with `CAPACITY = 2` the first byte is stored and the second dropped. -/
theorem test_rxByte_capacity_two :
    (nextOf (exec (.rxByte 0x02) (withHandler (cobsOf 2)))).map
      (fun s => (s.rxbuf, s.cursor, s.ovf)) = some ([(0, 0x02)], 1, false) ∧
    (nextOf (exec (.rxByte 0x11) (buffered (cobsOf 2) [0x02]))).map
      (fun s => (s.rxbuf, s.cursor, s.ovf)) = some ([(0, 0x02)], 1, true) := by decide

/-- V-RX-12. -/
theorem test_rxDrain_empty :
    nextOf (exec .rxDrain (withHandler (cobsOf 256))) = some (withHandler (cobsOf 256)) := by decide

/-- P4, byte 2: the drain's third byte is a marker; the handler's list is called inside the drain. -/
theorem test_rxDrain_dispatches :
    (nextOf (exec .rxDrain { buffered (cobsOf 256) [0x02, 0xAA] with
      rxq := [0x00, 0x03], handlers := [(1, .lines [.line (opLine .rxDrain)])] })).map
      (fun s => (s.rxq, s.pkt, s.calls)) =
    some ([0x03], [⟨1, [0xAA]⟩], [.host [.op ⟨0x9000, [], 0⟩], .drain]) := by decide

/-- 60_exceptions.md R203: a handler that depends on its packet, here one that sends it back. -/
theorem test_dispatch_echo :
    ({ withHandler (cobsOf 256) with
      handlers := [(1, .lines [.onPacket 0xC000])] }.dispatch 1 [0x11, 0x22]).calls =
    [.host [.op ⟨0xC000, [0x11, 0x22], 2⟩]] := by decide

/-- 60_exceptions.md R203: the free handler is given the packet and the host's own state, and what it
leaves in the host's variables is kept. -/
theorem test_dispatch_free :
    ({ withHandler (cobsOf 256) with
      handlers := [(1, .free)], hostVars := 5, results := [.bool true] }.dispatch 1 [0x11]).hostVars =
    (Config.freeHandler 5 [.bool true] 1 [0x11]).2 := rfl

/-- V-RX-3: the flag is answered and kept. -/
theorem test_rxOvf :
    (nextOf (exec .rxOvf { buffered (cobsOf 4) [0x03, 0x11, 0x22] with ovf := true })).map
      (fun s => (s.results, s.ovf)) = some ([.bool true], true) := by decide

/-- V-RX-8: the bytes buffered stay when the handler is replaced. -/
theorem test_setHandler :
    (nextOf (exec (.setHandler (some 2)) (buffered (cobsOf 256) [0x02, 0x11]))).map
      (fun s => (s.hnd, s.cursor)) = some (some 2, 2) := by decide

/-- V-TX-4, first frame: the leading `END` and the trailing marker. -/
theorem test_txSend_slip :
    (nextOf (exec (.txSend [0xC0, 0x05]) (withHandler (Config.ofCodec .slip)))).map State.txq =
    some [0xC0, 0xDB, 0xDC, 0x05, 0xC0] := by decide

/-- V-TX-1, V-TX-2: the two no-ops. -/
theorem test_txSend_noop :
    (nextOf (exec (.txSend []) State.reset)).map State.txq = some [] ∧
    (nextOf (exec (.txSend [0x01])
      (State.resetWith { cobsOf 256 with sinkEn := false }))).map State.txq = some [] := by decide

/-- V-RS-3, V-RS-5: the partial frame and the handler are discarded, `TXQ` is not touched. -/
theorem test_reset :
    (nextOf (exec .reset { buffered (cobsOf 256) [0x05, 0x44] with txq := [0x02] })).map
      (fun s => (s.cursor, s.hnd, s.txq)) = some (0, none, [0x02]) := by decide

/-- 00_scope.md R13, V-OP-18: an illegal word makes the step refuse. -/
theorem test_step_illegal_word :
    refusalOf (step (State.reset.withFetchWord 16 0x7000)) =
    some (.illegalWord .reservedOpcode) := by decide

/-! ### Witnesses of the statements' hypotheses -/

theorem witness_IllFormedConfigurationIsNotBuilt :
    nextOf (construct (cobsLen 2 2)) = some (State.resetWith (cobsLen 2 2)) ∧
    refusalOf (construct (cobsOf 1)) = some .illFormedConfig ∧
    refusalOf (construct (cobsLen 4 2)) = some .illFormedConfig := by decide

theorem witness_ConstructionEstablishesTheInvariant : (Config.ofCodec .slip).wf = true := by decide

theorem witness_step_next : step State.reset = .next State.reset := rfl

theorem witness_IllegalWordsAreRefused :
    errorOf (decode ⟨0xB001, [], 0⟩) = some .tagWithoutHandler ∧
    (issuing (cobsOf 2) ⟨0xB001, [], 0⟩).cfg.wf = true ∧
    (issuing (cobsOf 2) ⟨0xB001, [], 0⟩).calls = [.host [.op ⟨0xB001, [], 0⟩]] := by decide

theorem witness_EncodeOfDecodeIsTheWord :
    okOf (decode ⟨0xB0FF, [], 0⟩) = some (.setHandler (some 127)) := by decide

theorem witness_StepRunsTheIssuedOperation :
    (issuing (cobsOf 2) ⟨0x80FF, [], 0⟩).cfg.wf = true ∧
    (issuing (cobsOf 2) ⟨0x80FF, [], 0⟩).calls = [.host [.op ⟨0x80FF, [], 0⟩]] ∧
    okOf (decode ⟨0x80FF, [], 0⟩) = some (.rxByte 0xFF) := by decide

/-- A drain in progress on a quiet source. -/
def draining : State :=
  { withHandler (cobsOf 4) with rxq := [0x02, 0x11, 0x00], calls := [.drain] }

theorem witness_StepGoesOnWithASuspendedDrain :
    draining.cfg.wf = true ∧ draining.calls = [.drain] := by decide

theorem witness_StepWithoutAnOperation :
    State.reset.cfg.wf = true ∧ State.reset.calls = [] ∧
    { State.reset with calls := [.host []] }.calls = [.host []] ∧
    { State.reset with calls := [.host [.rxq [0x01]]] }.calls = [.host [.rxq [0x01]]] := by decide

theorem witness_ArrivalsJoinTheTailOfTheSource :
    { State.reset with arrivals := [[0x01], []] }.arrivals = [0x01] :: [[]] ∧
    State.reset.arrivals = [] := by decide

theorem witness_FetchWordRunsNext :
    draining.cfg.wf = true ∧ decodeTableWord 16 0xF000 = some .reset := by decide

theorem witness_groups :
    (∀ g ∈ [List.replicate 254 (0x07 : Byte), []], g.length ≤ 254) := by decide +kernel

theorem witness_CobsDecodeInvertsEncode :
    (List.replicate 254 (0x07 : Byte)).length = 254 ∧
    (0x00 : Byte) ∉ List.replicate 254 (0x07 : Byte) ∧
    cobsDecode (cobsEncode []) = .ok [] := by decide +kernel

theorem witness_CobsEncodedLength :
    (List.replicate 254 (0x07 : Byte)).length = 254 * 1 ∧
    (0x00 : Byte) ∉ List.replicate 254 (0x07 : Byte) := by decide +kernel

theorem witness_CobsDecodeRejectsATruncatedGroup :
    (∀ g ∈ [[0x11, (0x22 : Byte)]], g.length ≤ 254) ∧ (0x02 : Byte) ≠ 1 ∧
    ([] : ByteSeq).length + 1 < (0x02 : Byte).toNat := by decide

theorem witness_CobsDecodedIsShorter : ([0x01] : ByteSeq) ≠ [] := by decide

/-- `LENW = 3`: six bytes and their block of seven fit. -/
theorem witness_CobsEncAndDecAnswer :
    LengthFits (State.resetWith (cobsLen 7 3)).cfg ([1, 2, 3, 4, 5, 6] : ByteSeq).length ∧
    LengthFits (State.resetWith (cobsLen 7 3)).cfg (cobsEncode [1, 2, 3, 4, 5, 6]).length :=
  ⟨(fits_iff _ _).1 (by decide), (fits_iff _ _).1 (by decide)⟩

/-- `LENW = 8`: 253 is the largest operand whose bound fits, 254 the first whose does not. -/
theorem witness_CobsMaxAnswersTheWorstCase :
    LengthFits (State.resetWith (cobsLen 255 8)).cfg (253 + 253 / 254 + 1) ∧
    (State.resetWith (cobsLen 255 8)).cfg.lenw = some 8 ∧ 2 ^ 8 ≤ 254 + 254 / 254 + 1 ∧
    (List.replicate 3 (0x07 : Byte)).length = 3 :=
  ⟨(fits_iff _ _).1 (by decide), by decide, by decide, by decide⟩

theorem witness_SlipEncodedFrameShape :
    slipEncode [0xDB] = [0xC0] ++ 0xDB :: [0xDD] ∧
    slipEncode [0xC0] = [0xC0] ++ 0xDB :: [0xDC] := by decide

theorem witness_SlipDecodeDropsAnInvalidPair :
    slipDecode .zero [0xDB, 0xDC] = .ok [0xC0] ∧ (0xDE : Byte) ≠ slipEscEnd ∧
    (0xDE : Byte) ≠ slipEscEsc := by decide

/-- Also the prefix of `SlipTrailingEscFollowsTheParameter` and `SlipDecodeSkipsEveryEnd`. -/
theorem witness_slip_prefix :
    slipDecode .zero [] = .ok [] ∧ slipDecode .zero [0x01] = .ok [0x01] := by decide

/-- `LENW = 3`: three bytes, two of them escaped, and their frame of six fit. -/
theorem witness_SlipEncAndDecAnswer :
    LengthFits (State.resetWith (cobsLen 7 3)).cfg ([0xC0, 0xDB, 0x01] : ByteSeq).length ∧
    LengthFits (State.resetWith (cobsLen 7 3)).cfg (slipEncode [0xC0, 0xDB, 0x01]).length :=
  ⟨(fits_iff _ _).1 (by decide), (fits_iff _ _).1 (by decide)⟩

/-- `LENW = 3`: the bound of 2 fits, the bound of 3 is 8 and does not. -/
theorem witness_SlipMaxAnswersTheBound :
    LengthFits (State.resetWith (cobsLen 7 3)).cfg (2 * 2 + 2) ∧
    (State.resetWith (cobsLen 7 3)).cfg.lenw = some 3 ∧ 2 ^ 3 ≤ 2 * 3 + 2 ∧
    (List.replicate 3 (0x07 : Byte)).length = 3 :=
  ⟨(fits_iff _ _).1 (by decide), by decide, by decide, by decide⟩

/-- `LENW = 2`, `CAPACITY = 3`: operands of 4, and three bytes whose block or frame has 4. -/
theorem witness_LengthsThatDoNotFitAreRefused :
    (State.resetWith (cobsLen 3 2)).cfg.lenw = some 2 ∧
    2 ^ 2 ≤ ([1, 2, 3, 4] : ByteSeq).length ∧ 2 ^ 2 ≤ 4 ∧
    2 ^ 2 ≤ (cobsEncode [1, 2, 3]).length ∧ 2 ^ 2 ≤ (slipEncode [1, 2, 3]).length ∧
    2 ^ 2 ≤ (encodePayload (cobsLen 3 2) [1, 2, 3]).length ∧
    ([1, 2, 3] : ByteSeq) ≠ [] ∧ (cobsLen 3 2).sinkEn = true := by decide

theorem witness_CodecOperationsTouchNoState :
    (buffered (cobsOf 4) [0x03]).cfg.lenw = State.reset.cfg.lenw ∧
    (buffered (cobsOf 4) [0x03]).cfg.slipTrailEsc = State.reset.cfg.slipTrailEsc ∧
    nextOf (exec (.slipDec [0xDB]) State.reset) =
      some { State.reset with results := [.seq []] } := by decide

/-- Room for one more byte at `CURSOR = CAPACITY - 2`, and none at `CAPACITY - 1`. -/
theorem witness_NonMarkerByteIsStoredOrDropped :
    (0x11 : Byte) ≠ (buffered (cobsOf 3) [0x02]).cfg.marker ∧
    (buffered (cobsOf 3) [0x02]).cursor + 1 < (buffered (cobsOf 3) [0x02]).cfg.capacity ∧
    (buffered (cobsOf 2) [0x02]).cfg.capacity ≤ (buffered (cobsOf 2) [0x02]).cursor + 1 := by
  decide

theorem witness_MarkerDecodesClearsAndDispatches :
    (buffered (cobsOf 4) [0x02, 0x11]).hnd = some 1 ∧
    (buffered (cobsOf 4) [0x02, 0x11]).frame = .ok [0x02, 0x11] ∧
    State.reset.hnd = none := ⟨rfl, rfl, rfl⟩

/-- A full buffer with `OVF` set satisfies the invariant. -/
theorem witness_inv_full :
    ({ buffered (cobsOf 4) [0x03, 0x11, 0x22] with ovf := true } : State).Inv :=
  inv_of_check (by decide)

theorem witness_StoredByteEndsTheFrame :
    (buffered (cobsOf 4) [0x02]).frame = .ok [0x02] ∧
    (0x11 : Byte) ≠ (buffered (cobsOf 4) [0x02]).cfg.marker ∧
    (buffered (cobsOf 4) [0x02]).cursor + 1 < (buffered (cobsOf 4) [0x02]).cfg.capacity :=
  ⟨rfl, by decide, by decide⟩

theorem witness_FeedBuffersUpToTheCapacity :
    (withHandler (cobsOf 4)).Inv ∧ (withHandler (cobsOf 4)).Cleared ∧
    (withHandler (cobsOf 4)).cfg.marker ∉ ([0x11, 0x12, 0x13, 0x14] : ByteSeq) :=
  ⟨inv_of_check (by decide), ⟨rfl, rfl⟩, by decide⟩

theorem witness_FrameIsDeliveredAtItsMarker :
    (withHandler (cobsOf 4)).Inv ∧ (withHandler (cobsOf 4)).Cleared ∧
    (withHandler (cobsOf 4)).Quiet ∧ (withHandler (cobsOf 4)).hnd = some 1 ∧
    (withHandler (cobsOf 4)).cfg.marker ∉ ([0x03, 0x11, 0x22, 0x02, 0x33] : ByteSeq) :=
  ⟨inv_of_check (by decide), ⟨rfl, rfl⟩, ⟨by decide, by decide⟩, rfl, by decide⟩

theorem witness_FrameWithoutAHandlerIsLost :
    State.reset.Inv ∧ State.reset.Cleared ∧ State.reset.hnd = none ∧
    State.reset.cfg.marker ∉ ([0x02, 0x11] : ByteSeq) :=
  ⟨inv_of_check (by decide), ⟨rfl, rfl⟩, rfl, by decide⟩

/-- `CAPACITY = 5`: the payload `[00 11 00]` has a block of four bytes and just fits. -/
theorem witness_CobsLoopbackDeliversThePayload :
    (withHandler (cobsOf 5)).Inv ∧ (withHandler (cobsOf 5)).Cleared ∧
    (withHandler (cobsOf 5)).Quiet ∧ (withHandler (cobsOf 5)).hnd = some 1 ∧
    (cobsOf 5).codec = .cobs ∧ (cobsOf 5).marker = 0x00 ∧ (cobsOf 5).sinkEn = true ∧
    ([0x00, 0x11, 0x00] : ByteSeq) ≠ [] ∧
    (cobsEncode [0x00, 0x11, 0x00]).length ≤ (cobsOf 5).capacity - 1 :=
  ⟨inv_of_check (by decide), ⟨rfl, rfl⟩, ⟨by decide, by decide⟩, rfl, rfl, rfl, rfl, by decide,
    by decide⟩

/-- SLIP with a given capacity. -/
def slipOf (capacity : Nat) : Config := { Config.ofCodec .slip with capacity := capacity }

/-- `CAPACITY = 4`: the payload `[C0 05]` has three bytes to store and just fits. -/
theorem witness_SlipLoopbackDeliversThePayload :
    (withHandler (slipOf 4)).Inv ∧ (withHandler (slipOf 4)).Cleared ∧
    (withHandler (slipOf 4)).Quiet ∧ (withHandler (slipOf 4)).hnd = some 1 ∧
    (slipOf 4).codec = .slip ∧ (slipOf 4).marker = 0xC0 ∧ (slipOf 4).sinkEn = true ∧
    ([0xC0, 0x05] : ByteSeq) ≠ [] ∧
    ([0xC0, 0x05] : ByteSeq).length + slipEscapes [0xC0, 0x05] ≤ (slipOf 4).capacity - 1 :=
  ⟨inv_of_check (by decide), ⟨rfl, rfl⟩, ⟨by decide, by decide⟩, rfl, rfl, rfl, rfl, by decide,
    by decide⟩

theorem witness_DrainConsumesTheOldestByte :
    State.reset.rxq = [] ∧ draining.rxq = 0x02 :: [0x11, 0x00] := by decide

theorem witness_DrainRunsAsFeed :
    draining.cfg.wf = true ∧ draining.Quiet ∧ draining.NothingArrives ∧ draining.calls = [.drain] :=
  ⟨by decide, ⟨by decide, by decide⟩, ⟨rfl, rfl⟩, rfl⟩

/-- The lines of `FEED [02 00]` and one more in front of the block. -/
def feeding : State :=
  { withHandler (cobsOf 4) with calls := [.host (feedLines [0x02, 0x00] ++ [opLine .rxOvf])] }

theorem witness_FeedLinesRunAsFeed :
    feeding.cfg.wf = true ∧ feeding.Quiet ∧ feeding.NothingArrives ∧
    feeding.calls = .host (feedLines [0x02, 0x00] ++ [opLine .rxOvf]) :: [] :=
  ⟨by decide, ⟨by decide, by decide⟩, ⟨rfl, rfl⟩, rfl⟩

theorem witness_EndlessSourceKeepsTheDrainRunning :
    ({ State.reset with arrivalsThen := [0x11], calls := [.drain] } : State).cfg.wf = true ∧
    ({ State.reset with arrivalsThen := [0x11], calls := [.drain] } : State).hnd = none ∧
    ({ State.reset with arrivalsThen := [0x11], calls := [.drain] } : State).arrivals = [] ∧
    ({ State.reset with arrivalsThen := [0x11], calls := [.drain] } : State).arrivalsThen =
      [0x11] ∧
    ({ State.reset with arrivalsThen := [0x11], calls := [.drain] } : State).calls =
      [.drain] := by decide

/-- A handler that feeds a marker on every call, called once by the host. -/
def nesting : State :=
  { withHandler (cobsOf 2) with
    handlers := [(1, .lines [.line (opLine (.rxByte 0x00))])], calls := [.host [opLine (.rxByte 0x00)]] }

theorem witness_EndlessHandlerNestsWithoutEnd :
    nesting.cfg.wf = true ∧ nesting.Cleared ∧ nesting.hnd = some 1 ∧ nesting.replies = [] ∧
    handlerEntry nesting.handlers 1 = .lines [.line (opLine (.rxByte nesting.cfg.marker))] ∧
    nesting.calls = .host [opLine (.rxByte nesting.cfg.marker)] :: [] :=
  ⟨by decide, ⟨rfl, rfl⟩, rfl, rfl, by decide, by decide⟩

theorem witness_OverflowLastsUntilTheMarker :
    (withHandler (cobsOf 4)).Inv ∧ (withHandler (cobsOf 4)).Cleared ∧
    (withHandler (cobsOf 4)).cfg.marker ∉ ([0x11, 0x12, 0x13, 0x14] : ByteSeq) ∧
    (withHandler (cobsOf 4)).cfg.capacity ≤ ([0x11, 0x12, 0x13, 0x14] : ByteSeq).length :=
  ⟨inv_of_check (by decide), ⟨rfl, rfl⟩, by decide, by decide⟩

/-- The clauses of `TxSendWritesTheFrameAndTheMarker`: COBS, SLIP, an empty payload, no sink. -/
theorem witness_TxSendWritesTheFrameAndTheMarker :
    LengthFits (cobsOf 4) ([0x01] : ByteSeq).length ∧ ([0x01] : ByteSeq) ≠ [] ∧
    (cobsOf 4).sinkEn = true ∧ (cobsOf 4).codec = .cobs ∧
    LengthFits (cobsOf 4) (cobsEncode [0x01]).length ∧
    LengthFits (slipOf 4) ([0x01] : ByteSeq).length ∧ (slipOf 4).sinkEn = true ∧
    (slipOf 4).codec = .slip ∧ LengthFits (slipOf 4) (slipEncode [0x01]).length ∧
    LengthFits (cobsOf 4) ([] : ByteSeq).length ∧
    ({ cobsOf 4 with sinkEn := false } : Config).sinkEn = false :=
  ⟨(fits_iff _ _).1 (by decide), by decide, rfl, rfl, (fits_iff _ _).1 (by decide),
    (fits_iff _ _).1 (by decide), rfl, rfl, (fits_iff _ _).1 (by decide),
    (fits_iff _ _).1 (by decide), rfl⟩

theorem witness_TxSendAndRxByteCommute :
    nextOf (exec (.txSend [0x01]) (withHandler (cobsOf 4))) =
      some { withHandler (cobsOf 4) with txq := [0x02, 0x01, 0x00] } ∧
    nextOf (exec (.rxByte 0x00) { withHandler (cobsOf 4) with txq := [0x02, 0x01, 0x00] }) =
      some { withHandler (cobsOf 4) with txq := [0x02, 0x01, 0x00], pkt := [⟨1, []⟩] } := by decide

/-- A good state with a step: the hypotheses of `StepKeepsTheInvariant` and `LogsOnlyGrow`. -/
theorem witness_StepKeepsTheInvariant :
    draining.Inv ∧ (nextOf (step draining)).map State.cursor = some 1 :=
  ⟨inv_of_check (by decide), by decide⟩

/-- A step that ends neither in a fault nor in a refusal from the same good state, so that
`StepNeverFaults` speaks of runs that go on. -/
theorem witness_StepNeverFaults : draining.Inv ∧ (nextOf (step draining)).isSome = true :=
  ⟨inv_of_check (by decide), by decide⟩

/-- Each clause of `OperationsWriteOnlyTheirState` has an operation that writes what it speaks of. -/
theorem witness_OperationsWriteOnlyTheirState :
    (nextOf (exec (.setHandler none) draining)).map State.hnd = some none ∧
    (nextOf (exec (.rxByte 0x02) draining)).map State.cursor = some 1 ∧
    (nextOf (exec (.rxByte 0x00) draining)).map State.pkt = some [⟨1, []⟩] ∧
    (nextOf (exec .rxDrain draining)).map State.rxq = some [0x11, 0x00] ∧
    (nextOf (exec (.txSend [0x01]) draining)).map State.txq = some [0x02, 0x01, 0x00] ∧
    (nextOf (exec .rxOvf draining)).map State.results = some [.bool false] := by decide

/-- Both clauses of `OverflowFlagChangesOnlyAsTheRulesSay`: a dropped byte and a marker. -/
theorem witness_OverflowFlagChangesOnlyAsTheRulesSay :
    (buffered (cobsOf 2) [0x02]).ovf = false ∧
    (nextOf (exec (.rxByte 0x11) (buffered (cobsOf 2) [0x02]))).map State.ovf = some true ∧
    (nextOf (exec (.rxByte 0x00)
      { buffered (cobsOf 2) [0x02] with ovf := true })).map State.ovf = some false := by decide

theorem witness_InstancesShareNothing :
    stepInstance 0 [State.reset, draining] = .next [State.reset, draining] ∧ (1 : Nat) ≠ 0 :=
  ⟨rfl, by decide⟩

end Sys2Proof.Tests
end

section
/-! PROOFS. The statements of 00_scope.md: construction (R10), arrivals (R14), and that a good state
never faults (R13). -/

namespace Sys2Proof.Machine

/-! ### Construction -/

theorem construct_of_wf {c : Config} (h : c.wf = true) :
    construct c = .next (State.resetWith c) := if_pos h

theorem construct_of_not_wf {c : Config} (h : ¬ c.wf = true) :
    construct c = .refused .illFormedConfig := if_neg h

/-- Settles O2: R10's condition is the test of `Config.wf`, on which construction branches. -/
theorem illFormedConfigurationIsNotBuilt : Obligations.IllFormedConfigurationIsNotBuilt := fun c =>
  ⟨fun h => construct_of_wf ((config_wf_iff c).2 h),
    fun h => construct_of_not_wf (mt (config_wf_iff c).1 h)⟩

/-! ### Arrivals -/

theorem State.arrive_of_cons {s : State} {bytes : ByteSeq} {later : List ByteSeq}
    (h : s.arrivals = bytes :: later) :
    s.arrive = { s with rxq := s.rxq ++ bytes, arrivals := later } := by
  simp only [State.arrive, h]

theorem State.arrive_of_nil {s : State} (h : s.arrivals = []) :
    s.arrive = { s with rxq := s.rxq ++ s.arrivalsThen } := by
  simp only [State.arrive, h]

/-- Settles O12: one case for a coming entry of the list, one for the standing entry. -/
theorem arrivalsJoinTheTailOfTheSource : Obligations.ArrivalsJoinTheTailOfTheSource := fun _ =>
  ⟨fun _ _ => State.arrive_of_cons, State.arrive_of_nil⟩

/-! ### No fault

Every operation faults at most where the unfinished frame cannot be read; neither what arrives nor
what the host and its handler do touches the frame before the step's one operation. -/

theorem answerSeq_ne_fault (src dst : ByteSeq) (s : State) (f : Fault) :
    answerSeq src dst s ≠ .fault f := by
  unfold answerSeq
  split <;> nofun

theorem answerNat_ne_fault (n r : Nat) (s : State) (f : Fault) : answerNat n r s ≠ .fault f := by
  unfold answerNat
  split <;> nofun

theorem execTxSend_ne_fault (p : ByteSeq) (s : State) (f : Fault) : execTxSend p s ≠ .fault f := by
  unfold execTxSend
  split
  · nofun
  · split
    · nofun
    · split <;> nofun

theorem rxConsume_ne_fault {s : State} (h : ∃ frame, s.frame = .ok frame) (b : Byte) (f : Fault) :
    rxConsume b s ≠ .fault f := by
  obtain ⟨t, ht⟩ := rxConsume_next (b := b) h
  rw [ht]
  nofun

/-- Taking a byte off `RXQ` leaves the frame alone, so the byte is consumed without a fault. -/
theorem execRxDrain_ne_fault {s : State} (h : ∃ frame, s.frame = .ok frame) (f : Fault) :
    execRxDrain s ≠ .fault f := by
  unfold execRxDrain
  split
  · nofun
  · exact rxConsume_ne_fault (s := s.drainPop _) h _ f

theorem exec_ne_fault {s : State} (h : ∃ frame, s.frame = .ok frame) (i : Instr) (f : Fault) :
    exec i s ≠ .fault f := by
  cases i with
  | cobsEnc src => exact answerSeq_ne_fault src _ s f
  | cobsDec src => exact answerSeq_ne_fault src _ s f
  | cobsMax n => exact answerNat_ne_fault n _ s f
  | slipEnc src => exact answerSeq_ne_fault src _ s f
  | slipDec src => exact answerSeq_ne_fault src _ s f
  | slipMax n => exact answerNat_ne_fault n _ s f
  | rxByte b => exact rxConsume_ne_fault h b f
  | rxDrain => exact execRxDrain_ne_fault h f
  | rxOvf => nofun
  | setHandler v => nofun
  | txSend p => exact execTxSend_ne_fault p s f
  | reset => nofun

/-- Whatever the innermost activity turns to is done on the frame of the state itself. -/
theorem runTurn_turn_ne_fault {s : State} (h : ∃ frame, s.frame = .ok frame) (f : Fault) :
    runTurn s.turn ≠ .fault f := by
  cases ht : s.turn with
  | quiet t => nofun
  | issue r t =>
    obtain ⟨lines, outer, -, rfl⟩ := turn_issue ht
    simp only [runTurn]
    split
    · exact exec_ne_fault (s := s.withCalls (.host lines :: outer)) h _ f
    · nofun
  | drain t =>
    obtain ⟨outer, -, rfl⟩ := turn_drain ht
    exact exec_ne_fault (s := s.withCalls outer) h .rxDrain f

theorem State.arrive_frame (s : State) : s.arrive.frame = s.frame :=
  State.frame_congr s.arrive_cfg s.arrive_rxbuf s.arrive_cursor

/-- A step faults at most where the frame cannot be read. -/
theorem step_ne_fault {s : State} (h : ∃ frame, s.frame = .ok frame) (f : Fault) :
    step s ≠ .fault f := by
  unfold step
  split
  · exact runTurn_turn_ne_fault (by simpa only [State.arrive_frame] using h) f
  · nofun

/-- Settles O56: under the invariant the frame can be read. -/
theorem stepNeverFaults : Obligations.StepNeverFaults := fun _ f h => step_ne_fault h.frame_ok f

end Sys2Proof.Machine
end

section
/-! PROOFS. The statements of 10_state.md: the state after construction (R35), the invariant (R27), what
an operation reads and writes (R24, R36, R37), and that a step performs what the host issues (R21). -/

namespace Sys2Proof.Machine

/-! ### Construction -/

/-- Settles O1: each field is read off the state after construction, and an empty buffer reads as
unwritten everywhere. -/
theorem constructionGivesTheClearedState : Obligations.ConstructionGivesTheClearedState := fun _ =>
  ⟨rfl, rfl, rfl, fun _ => rfl, rfl, rfl, rfl, rfl, rfl⟩

/-- A cleared block with nothing written is good: construction and `RESET` both end in one. -/
theorem State.inv_of_nothing_written {s : State} (hwf : s.cfg.wf = true) (hb : s.rxbuf = [])
    (hc : s.cursor = 0) (ho : s.ovf = false) : s.Inv where
  cfg_wf := hwf
  rxbuf_wf := by rw [hb]; rfl
  last_unwritten := by simp [hb]
  cursor_le := by have := ((config_wf_iff _).1 hwf).1; omega
  ovf_full := by simp [ho]
  frame_written := by simp [hc]

theorem State.resetWith_inv {c : Config} (h : c.wf = true) : (State.resetWith c).Inv :=
  State.inv_of_nothing_written h rfl rfl rfl

/-- Settles O3: the plain reset is the construction from a well-formed configuration. -/
theorem constructionEstablishesTheInvariant : Obligations.ConstructionEstablishesTheInvariant :=
  ⟨State.resetWith_inv (by decide), fun _ => State.resetWith_inv⟩

/-! ### The frame of a good state -/

/-- A byte of a readable frame was written at an index below `CURSOR`. -/
theorem State.read_of_mem_frame {s : State} {frame : ByteSeq} (hf : s.frame = .ok frame) {b : Byte}
    (hb : b ∈ frame) : ∃ i < s.cursor, Memory.read s.rxbuf i = some b := by
  obtain ⟨hlen, -, hread⟩ := memReadRange_ok hf
  obtain ⟨i, hi, rfl⟩ := List.mem_iff_getElem.1 hb
  exact ⟨i, hlen ▸ hi, by rw [hread i (hlen ▸ hi), List.getElem?_eq_getElem hi]⟩

theorem State.Inv.marker_notMem_frame {s : State} (h : s.Inv) {frame : ByteSeq}
    (hf : s.frame = .ok frame) : s.cfg.marker ∉ frame := by
  intro hm
  obtain ⟨i, hi, hread⟩ := State.read_of_mem_frame hf hm
  obtain ⟨b, hb, hne⟩ := h.frame_written i hi
  exact hne (Option.some.inj (hb.symm.trans hread))

/-- Settles O36: the invariant makes the frame readable, and a range read gives the bytes in order. -/
theorem frameIsReadableAndMarkerFree : Obligations.FrameIsReadableAndMarkerFree := by
  intro s h
  obtain ⟨frame, hf⟩ := h.frame_ok
  obtain ⟨hlen, -, hread⟩ := memReadRange_ok hf
  exact ⟨frame, hf, hlen, h.marker_notMem_frame hf, fun i hi => (hread i hi).symm⟩

/-! ### The codec operations

Each is one of the two ways of answering, which look at nothing of the state but `LENW`. -/

theorem LengthFits.congr {c d : Config} {n : Nat} (h : LengthFits c n) (hl : d.lenw = c.lenw) :
    LengthFits d n := fun w hw => h w (hl.symm.trans hw)

theorem answerSeq_transfer {src dst : ByteSeq} {s t s' : State} (hl : t.cfg.lenw = s.cfg.lenw)
    (h : answerSeq src dst s = .next s') :
    ∃ r, s' = s.answer r ∧ answerSeq src dst t = .next (t.answer r) := by
  obtain ⟨hsrc, hdst, rfl⟩ := answerSeq_cases h
  exact ⟨_, rfl, answerSeq_of_fits (hsrc.congr hl) (hdst.congr hl)⟩

theorem answerNat_transfer {n m : Nat} {s t s' : State} (hl : t.cfg.lenw = s.cfg.lenw)
    (h : answerNat n m s = .next s') :
    ∃ r, s' = s.answer r ∧ answerNat n m t = .next (t.answer r) := by
  obtain ⟨hn, hm, rfl⟩ := answerNat_cases h
  exact ⟨_, rfl, answerNat_of_fits (hn.congr hl) (hm.congr hl)⟩

/-- Settles O33: only `SLIP_DEC` takes its result from the configuration as well, by
`SLIP_TRAIL_ESC`. -/
theorem codecOperationsTouchNoState : Obligations.CodecOperationsTouchNoState := by
  rintro _ s t s' (⟨src, rfl⟩ | ⟨src, rfl⟩ | ⟨n, rfl⟩ | ⟨src, rfl⟩ | ⟨src, rfl⟩ | ⟨n, rfl⟩) hl htrail h
  · exact answerSeq_transfer hl h
  · exact answerSeq_transfer hl h
  · exact answerNat_transfer hl h
  · exact answerSeq_transfer hl h
  · show ∃ r, _ ∧ answerSeq src (slipDecode t.cfg.slipTrailEsc src).bytes t = _
    rw [htrail]
    exact answerSeq_transfer hl h
  · exact answerNat_transfer hl h

/-! ### Receiving and the other operations

`RX_BYTE` and `RX_DRAIN` consume a byte by the one transition `rxConsume`; every later statement is
about that transition, the drain without a byte, and the operations that receive nothing. -/

/-- `Receives s i b u`: in state `s`, operation `i` consumes byte `b` in state `u` (42_reassembler.md
R151, R160). -/
inductive Receives (s : State) : Instr → Byte → State → Prop where
  | rxByte (b : Byte) : Receives s (.rxByte b) b s
  | rxDrain {b : Byte} {rest : ByteSeq} (hq : s.rxq = b :: rest) :
      Receives s .rxDrain b (s.drainPop rest)

/-- The three kinds of operation that goes on: one that consumes a byte, a drain that finds none, and
one that is no receive operation. -/
theorem exec_kinds {i : Instr} {s t : State} (h : exec i s = .next t) :
    (∃ b u, Receives s i b u ∧ rxConsume b u = .next t) ∨ (i = .rxDrain ∧ t = s) ∨
      ((∀ b, i ≠ .rxByte b) ∧ i ≠ .rxDrain) := by
  by_cases hb : ∃ b, i = .rxByte b
  · obtain ⟨b, rfl⟩ := hb
    exact .inl ⟨b, s, .rxByte b, h⟩
  · by_cases hd : i = .rxDrain
    · subst hd
      rcases execRxDrain_cases h with ⟨-, ht⟩ | ⟨b, rest, hq, ht⟩
      · exact .inr (.inl ⟨rfl, ht⟩)
      · exact .inl ⟨b, _, .rxDrain hq, ht⟩
    · exact .inr (.inr ⟨not_exists.1 hb, hd⟩)

/-- An operation that receives nothing leaves the Reassembler's buffer and flag alone, or is
`RESET`. -/
theorem exec_other_buffer {i : Instr} {s t : State} (h : exec i s = .next t)
    (hb : ∀ b, i ≠ .rxByte b) (hd : i ≠ .rxDrain) :
    (t.cfg = s.cfg ∧ t.rxbuf = s.rxbuf ∧ t.cursor = s.cursor ∧ t.ovf = s.ovf) ∨
      (i = .reset ∧ t.cfg = s.cfg ∧ t.rxbuf = [] ∧ t.cursor = 0 ∧ t.ovf = false) := by
  rcases exec_cases h hb hd with ⟨r, rfl, -⟩ | ⟨v, -, rfl⟩ | ⟨p, -, bytes, rfl⟩ | ⟨hi, rfl⟩
  · exact .inl ⟨rfl, rfl, rfl, rfl⟩
  · exact .inl ⟨rfl, rfl, rfl, rfl⟩
  · exact .inl ⟨rfl, rfl, rfl, rfl⟩
  · exact .inr ⟨hi, rfl, rfl, rfl, rfl⟩

/-! ### Every step keeps the invariant -/

theorem State.Inv.of_receives {s u : State} (h : s.Inv) {i : Instr} {b : Byte}
    (hr : Receives s i b u) : u.Inv := by
  cases hr with
  | rxByte => exact h
  | rxDrain => exact h.congr rfl rfl rfl rfl

theorem State.Inv.of_exec {s t : State} (h : s.Inv) {i : Instr} (ht : exec i s = .next t) :
    t.Inv := by
  rcases exec_kinds ht with ⟨b, u, hr, hu⟩ | ⟨-, rfl⟩ | ⟨hb, hd⟩
  · exact (h.of_receives hr).rxConsume hu
  · exact h
  · rcases exec_other_buffer ht hb hd with ⟨hcfg, hbuf, hcur, hovf⟩ | ⟨-, hcfg, hbuf, hcur, hovf⟩
    · exact h.congr hcfg hbuf hcur hovf
    · exact State.inv_of_nothing_written (hcfg ▸ h.cfg_wf) hbuf hcur hovf

/-- Settles O55: a step performs at most one operation, in a state that has the block's own fields of
the one before it. -/
theorem stepKeepsTheInvariant : Obligations.StepKeepsTheInvariant := by
  intro s t h ht
  obtain ⟨-, heq | ⟨i, u, hu, heq⟩⟩ := step_cases ht
  · exact heq ▸ h.congr rfl rfl rfl rfl
  · have hu' : u.Inv := heq ▸ h.congr rfl rfl rfl rfl
    exact hu'.of_exec hu

/-! ### What an operation writes -/

/-- A consumed byte writes the buffer, the flag, and what a dispatch writes, and nothing else. -/
theorem rxConsume_frame {b : Byte} {s t : State} (h : rxConsume b s = .next t) :
    t.cfg = s.cfg ∧ t.arrivals = s.arrivals ∧ t.arrivalsThen = s.arrivalsThen ∧
      t.handlers = s.handlers ∧ t.hnd = s.hnd ∧ t.rxq = s.rxq ∧ t.txq = s.txq ∧
      t.results = s.results := by
  rcases rxConsume_cases h with ⟨-, -, rfl⟩ | ⟨hid, frame, -, -, -, rfl⟩ | ⟨-, -, rfl⟩ | ⟨-, -, rfl⟩
  · exact ⟨rfl, rfl, rfl, rfl, rfl, rfl, rfl, rfl⟩
  · exact ⟨rfl, rfl, rfl, rfl, rfl, rfl, rfl, rfl⟩
  · exact ⟨rfl, rfl, rfl, rfl, rfl, rfl, rfl, rfl⟩
  · exact ⟨rfl, rfl, rfl, rfl, rfl, rfl, rfl, rfl⟩

/-- A receive operation writes what its byte writes, and `RXQ` only when it is `RX_DRAIN`. -/
theorem Receives.frame {s u t : State} {i : Instr} {b : Byte} (hr : Receives s i b u)
    (h : rxConsume b u = .next t) :
    t.cfg = s.cfg ∧ t.arrivals = s.arrivals ∧ t.arrivalsThen = s.arrivalsThen ∧
      t.handlers = s.handlers ∧ t.hnd = s.hnd ∧ t.txq = s.txq ∧ t.results = s.results ∧
      (i = .rxByte b ∧ t.rxq = s.rxq ∨ i = .rxDrain) := by
  obtain ⟨hcfg, harr, harr', hhs, hhnd, hrxq, htxq, hres⟩ := rxConsume_frame h
  cases hr with
  | rxByte => exact ⟨hcfg, harr, harr', hhs, hhnd, htxq, hres, .inl ⟨rfl, hrxq⟩⟩
  | rxDrain => exact ⟨hcfg, harr, harr', hhs, hhnd, htxq, hres, .inr rfl⟩

/-- Settles O58: the clauses speak of fields, and each operation's next state shows which of them it
writes. -/
theorem operationsWriteOnlyTheirState : Obligations.OperationsWriteOnlyTheirState := by
  intro i s t h
  rcases exec_kinds h with ⟨b, u, hr, hu⟩ | ⟨-, rfl⟩ | ⟨hb, hd⟩
  · obtain ⟨hcfg, harr, harr', hhs, hhnd, htxq, hres, hi⟩ := hr.frame hu
    have hrecv : (∃ b, i = .rxByte b) ∨ i = .rxDrain := hi.imp_left fun h => ⟨b, h.1⟩
    exact ⟨hcfg, harr, harr', hhs, absurd hhnd, fun _ => hrecv.imp_right .inl, fun _ => hrecv,
      fun hne => hi.resolve_left fun h => hne h.2, absurd htxq, absurd hres⟩
  · simp
  · rcases exec_cases h hb hd with ⟨r, rfl, hi⟩ | ⟨v, hi, rfl⟩ | ⟨p, hi, bytes, rfl⟩ | ⟨hi, rfl⟩
    · exact ⟨rfl, rfl, rfl, rfl, by simp, by simp, by simp, by simp, by simp, fun _ => hi⟩
    · exact ⟨rfl, rfl, rfl, rfl, fun _ => .inl ⟨v, hi⟩, by simp, by simp, by simp, by simp, by simp⟩
    · exact ⟨rfl, rfl, rfl, rfl, by simp, by simp, by simp, by simp, fun _ => ⟨p, hi⟩, by simp⟩
    · exact ⟨rfl, rfl, rfl, rfl, fun _ => .inr hi, fun _ => .inr (.inr hi), by simp, by simp,
        by simp, by simp⟩

/-! ### The overflow flag -/

theorem rxConsume_sets_ovf {b : Byte} {s t : State} (h : rxConsume b s = .next t)
    (hs : s.ovf = false) (ht : t.ovf = true) :
    b ≠ s.cfg.marker ∧ s.cfg.capacity ≤ s.cursor + 1 := by
  rcases rxConsume_cases h with ⟨-, -, rfl⟩ | ⟨hid, frame, -, -, -, rfl⟩ | ⟨-, -, rfl⟩ |
    ⟨hb, hfull, rfl⟩
  · cases ht
  · cases ht
  · exact Bool.noConfusion (hs.symm.trans ht)
  · exact ⟨hb, hfull⟩

theorem rxConsume_clears_ovf {b : Byte} {s t : State} (h : rxConsume b s = .next t)
    (hs : s.ovf = true) (ht : t.ovf = false) : b = s.cfg.marker := by
  rcases rxConsume_cases h with ⟨hb, -, -⟩ | ⟨hid, frame, hb, -, -, -⟩ | ⟨-, -, rfl⟩ | ⟨-, -, rfl⟩
  · exact hb
  · exact hb
  · exact Bool.noConfusion (hs.symm.trans ht)
  · cases ht

/-- Where the consumed byte comes from, and that the drain's way of taking it leaves the test of
42_reassembler.md R152 and the marker alone. -/
theorem Receives.source {s u : State} {i : Instr} {b : Byte} (hr : Receives s i b u) :
    (i = .rxByte b ∨ (i = .rxDrain ∧ s.rxq.head? = some b)) ∧ u.cfg = s.cfg ∧
      u.cursor = s.cursor ∧ u.ovf = s.ovf := by
  cases hr with
  | rxByte => exact ⟨.inl rfl, rfl, rfl, rfl⟩
  | rxDrain hq => exact ⟨.inr ⟨rfl, by rw [hq]; rfl⟩, rfl, rfl, rfl⟩

/-- Settles O59: by what a consumed byte does to the flag; of the other operations only `RESET` writes
it. -/
theorem overflowFlagChangesOnlyAsTheRulesSay :
    Obligations.OverflowFlagChangesOnlyAsTheRulesSay := by
  intro i s t h
  rcases exec_kinds h with ⟨b, u, hr, hu⟩ | ⟨-, rfl⟩ | ⟨hb, hd⟩
  · obtain ⟨hi, hcfg, hcur, hovf⟩ := hr.source
    rw [← hcfg, ← hcur, ← hovf]
    refine ⟨fun hs ht => ?_, fun hs ht => ?_⟩
    · obtain ⟨hne, hfull⟩ := rxConsume_sets_ovf hu hs ht
      exact ⟨hfull, b, hne, hi⟩
    · exact .inr (rxConsume_clears_ovf hu hs ht ▸ hi)
  · exact ⟨fun hs ht => Bool.noConfusion (hs.symm.trans ht),
      fun hs ht => Bool.noConfusion (hs.symm.trans ht)⟩
  · rcases exec_other_buffer h hb hd with ⟨-, -, -, hovf⟩ | ⟨hi, -, -, -, hovf⟩
    · rw [hovf]
      exact ⟨fun hs ht => Bool.noConfusion (hs.symm.trans ht),
        fun hs ht => Bool.noConfusion (hs.symm.trans ht)⟩
    · exact ⟨fun _ ht => Bool.noConfusion (hovf.symm.trans ht), fun _ _ => .inl hi⟩

/-! ### The step performs what the host issues -/

theorem step_of_wf {s : State} (h : s.cfg.wf = true) : step s = runTurn s.arrive.turn := if_pos h

theorem State.turn_of_op {s : State} {r : Request} {lines : List HostLine} {outer : List Activity}
    (h : s.calls = .host (.op r :: lines) :: outer) :
    s.turn = .issue r (s.withCalls (.host lines :: outer)) := by
  simp only [State.turn, h]

theorem runTurn_issue {r : Request} {i : Instr} (h : decode r = .ok i) (s : State) :
    runTurn (.issue r s) = exec i s := by
  simp only [runTurn, h]

/-- Settles O9: what arrives leaves the host's list alone, so the turn is the issued request. -/
theorem stepRunsTheIssuedOperation : Obligations.StepRunsTheIssuedOperation := by
  intro s r i lines outer hwf hc hd
  rw [step_of_wf hwf, State.turn_of_op (s.arrive_calls.trans hc), runTurn_issue hd]

theorem step_withCalls_op {s : State} {r : Request} {i : Instr} (hwf : s.cfg.wf = true)
    (hd : decode r = .ok i) (lines : List HostLine) (outer : List Activity) :
    step (s.withCalls (.host (.op r :: lines) :: outer)) =
      exec i (s.arrive.withCalls (.host lines :: outer)) := by
  have h := stepRunsTheIssuedOperation (s.withCalls (.host (.op r :: lines) :: outer)) r i lines outer
    hwf rfl hd
  rwa [State.arrive_withCalls, State.withCalls_withCalls] at h

/-- A line put next joins the innermost list of the host. -/
theorem State.issueNext_of_host {s : State} {lines : List HostLine} {outer : List Activity}
    (h : s.calls = .host lines :: outer) (line : HostLine) :
    s.issueNext line = s.withCalls (.host (line :: lines) :: outer) := by
  simp only [State.issueNext, h]

/-- Where no list of the host is innermost, a line put next becomes one of its own. -/
theorem State.issueNext_of_not_host {s : State}
    (h : ∀ lines outer, s.calls ≠ .host lines :: outer) (line : HostLine) :
    s.issueNext line = s.withCalls (.host [line] :: s.calls) := by
  unfold State.issueNext
  split
  · rename_i hc
    exact absurd hc (h _ _)
  · rfl

theorem decode_of_decodeTableWord {nbits w : Nat} {i : Instr}
    (h : decodeTableWord nbits w = some i) : decode (tableRequest nbits w) = .ok i := by
  unfold decodeTableWord at h
  split at h
  · rename_i hd
    rw [hd, Option.some.inj h]
  · cases h

/-- Settles O13: the word is put in front of the host's innermost list or of everything begun, and
either way the step finds it there. -/
theorem fetchWordRunsNext : Obligations.FetchWordRunsNext := by
  intro s w i hwf hw
  have hd := decode_of_decodeTableWord hw
  unfold State.withFetchWord
  split
  · rename_i lines outer hc
    rw [State.issueNext_of_host hc, step_withCalls_op hwf hd]
  · rename_i hn
    rw [State.issueNext_of_not_host hn, step_withCalls_op hwf hd]

end Sys2Proof.Machine
end

section
/-! PROOFS. The statement of 20_memory.md: what a write at `CURSOR` makes of the frame (R51). -/

namespace Sys2Proof.Machine

/-- With room, a byte that is not the marker is written at `CURSOR` (42_reassembler.md R152). -/
theorem rxConsume_room {b : Byte} {s : State} (hb : b ≠ s.cfg.marker)
    (hr : s.cursor + 1 < s.cfg.capacity) :
    rxConsume b s = .next (s.stored (Memory.write s.rxbuf s.cursor b)) :=
  (if_neg hb).trans (rxStore_room hr)

/-- `CURSOR` is the first index past the frame, so the byte written there extends it by one. -/
theorem State.stored_write_frame {s : State} {frame : ByteSeq} (hf : s.frame = .ok frame)
    (hr : s.cursor < s.cfg.capacity) (b : Byte) :
    (s.stored (Memory.write s.rxbuf s.cursor b)).frame = .ok (frame ++ [b]) :=
  memReadRange_write hf hr b

/-- Settles O38: the byte is stored at `CURSOR`, the end of the range that the frame is read from. -/
theorem storedByteEndsTheFrame : Obligations.StoredByteEndsTheFrame := fun _ b _ hf hb hr =>
  ⟨_, rxConsume_room hb hr, State.stored_write_frame hf (Nat.lt_of_succ_lt hr) b⟩

end Sys2Proof.Machine
end

section
/-! PROOFS. The statements of 30_encoding.md: the operation words (R90 to R96), lengths (R93), the
configuration (R97), `FEED` (R100), and the COBS wire format (R80 to R83). -/

namespace Sys2Proof.Machine

/-! ### The COBS wire format -/

@[simp] theorem blockBytes_nil : blockBytes [] = [] := rfl

@[simp] theorem blockBytes_cons (g : ByteSeq) (groups : List ByteSeq) :
    blockBytes (g :: groups) = groupBytes g ++ blockBytes groups := rfl

/-- From registers with an open group the encoder writes the groups the wire format makes of the rest
of the payload, after the block that stands already. -/
theorem cobsEncFinish_foldl_open (src : ByteSeq) {r : CobsEncRegs} {done group : ByteSeq}
    (h : r.Open done group) :
    cobsEncFinish (src.foldl cobsEncByte r) =
      done ++ blockBytes (payloadGroupsFrom group src) := by
  induction src generalizing r done group with
  | nil => simpa [payloadGroupsFrom] using cobsEncFinish_open h
  | cons b rest ih =>
    by_cases hb : b = 0x00
    · subst hb
      simp only [List.foldl_cons, payloadGroupsFrom, if_true, ih (cobsEncByte_zero h),
        blockBytes_cons, List.append_assoc]
    · by_cases hl : group.length + 1 = 254
      · simp only [List.foldl_cons, payloadGroupsFrom, if_neg hb, if_pos hl,
          ih (cobsEncByte_full h hb hl), blockBytes_cons, List.append_assoc]
      · simp only [List.foldl_cons, payloadGroupsFrom, if_neg hb, if_neg hl,
          ih (cobsEncByte_copy h hb hl)]

/-- Settles O14: the encoder starts with an open group without data, and its registers follow the
groups byte by byte. -/
theorem cobsEncoderWritesTheWireFormat : Obligations.CobsEncoderWritesTheWireFormat := fun src =>
  cobsEncFinish_foldl_open src cobsEncStart_open

theorem blockBytes_eq_nil_iff (groups : List ByteSeq) : blockBytes groups = [] ↔ groups = [] := by
  cases groups <;> simp [groupBytes]

/-- Every group has a code byte. -/
theorem length_le_blockBytes_length (groups : List ByteSeq) :
    groups.length ≤ (blockBytes groups).length := by
  induction groups with
  | nil => simp
  | cons g groups ih => simp [groupBytes]; omega

/-- The payload of a block by its first group, with the zero tested as the decoder tests it: on what
follows the group (40_cobs_codec.md R114). -/
theorem blockPayload_cons (g : ByteSeq) (groups : List ByteSeq) :
    blockPayload (g :: groups) =
      g ++ (if g.length = 254 ∨ blockBytes groups = [] then [] else [0x00]) ++
        blockPayload groups := by
  cases groups with
  | nil => simp [blockPayload]
  | cons g' groups => simp [blockPayload, blockBytes_eq_nil_iff, -blockBytes_cons]

/-- The decoder reads one whole group a round, so as many rounds as groups are enough. -/
theorem cobsDecLoop_blockBytes {groups : List ByteSeq} (h : ∀ g ∈ groups, g.length ≤ 254)
    {rounds : Nat} (hr : groups.length ≤ rounds) (dst : ByteSeq) :
    cobsDecLoop rounds (blockBytes groups) dst = .ok (dst ++ blockPayload groups) := by
  induction groups generalizing rounds dst with
  | nil => cases rounds <;> simp [cobsDecLoop, blockPayload]
  | cons g groups ih =>
    obtain ⟨hg, hgs⟩ := List.forall_mem_cons.1 h
    obtain ⟨rounds, rfl⟩ := Nat.exists_eq_succ_of_ne_zero (Nat.ne_zero_of_lt hr)
    rw [blockBytes_cons, cobsDecLoop_group hg, ih hgs (Nat.le_of_succ_le_succ hr),
      blockPayload_cons]
    simp only [List.append_assoc]

/-- Settles O15: the decoder has a round for every byte, hence one for every group. -/
theorem cobsDecoderReadsTheWireFormat : Obligations.CobsDecoderReadsTheWireFormat :=
  fun groups h => cobsDecLoop_blockBytes h (length_le_blockBytes_length groups) []

/-! ### Operation words -/

@[simp] theorem presentField_handlerImm_some (hid : Tag) :
    presentField (handlerImm (some hid)) = true :=
  (presentField_iff _).2 (by rw [handlerImm_some_toNat]; omega)

@[simp] theorem hidField_handlerImm_some (hid : Tag) : hidField (handlerImm (some hid)) = hid := by
  apply BitVec.eq_of_toNat_eq
  have := hid.isLt
  rw [hidField_toNat, handlerImm_some_toNat]
  omega

theorem decodeSetHandler_handlerImm (v : Option Tag) :
    decodeSetHandler (handlerImm v) = .ok (.setHandler v) := by
  cases v with
  | none => rfl
  | some hid => simp [decodeSetHandler]

/-- Settles O7: the fields of the word the encoder writes are the operation's code and its immediate
operand, and only `SET_HANDLER`'s has to be taken apart. -/
theorem decodeOfEncodeIsTheOperation : Obligations.DecodeOfEncodeIsTheOperation := by
  intro i
  cases i with
  | cobsEnc src => exact decode_opWord 0x1 0 src 0
  | cobsDec src => exact decode_opWord 0x2 0 src 0
  | cobsMax n => exact decode_opWord 0x3 0 [] n
  | slipEnc src => exact decode_opWord 0x4 0 src 0
  | slipDec src => exact decode_opWord 0x5 0 src 0
  | slipMax n => exact decode_opWord 0x6 0 [] n
  | rxByte b => exact decode_opWord 0x8 b [] 0
  | rxDrain => exact decode_opWord 0x9 0 [] 0
  | rxOvf => exact decode_opWord 0xA 0 [] 0
  | setHandler v =>
    exact (decode_opWord 0xB (handlerImm v) [] 0).trans (decodeSetHandler_handlerImm v)
  | txSend p => exact decode_opWord 0xC 0 p 0
  | reset => exact decode_opWord 0xF 0 [] 0

/-- Settles O5: each word's fields are computed, and the decode is that of its fields. -/
theorem wordsOfTheTableDecode : Obligations.WordsOfTheTableDecode := fun data arg =>
  ⟨decode_opWord 0x1 0 data arg, decode_opWord 0x2 0 data arg, decode_opWord 0x3 0 data arg,
    decode_opWord 0x4 0 data arg, decode_opWord 0x5 0 data arg, decode_opWord 0x6 0 data arg,
    decode_opWord 0x8 0x11 data arg, decode_opWord 0x9 0 data arg, decode_opWord 0xA 0 data arg,
    decode_opWord 0xB 0xFF data arg, decode_opWord 0xB 0x80 data arg, decode_opWord 0xB 0 data arg,
    decode_opWord 0xC 0 data arg, decode_opWord 0xF 0 data arg⟩

/-- `Reads o b d`: `d` is what the operation code `o` makes of the immediate byte `b`. The codes fall
into four kinds: reserved (30_encoding.md R96), `RX_BYTE`, `SET_HANDLER`, and those of the formats
that take no immediate operand (R93). -/
inductive Reads : BitVec 4 → Byte → Except DecodeError Instr → Prop where
  | reserved {o : BitVec 4} (b : Byte)
      (ho : o.toNat = 0x0 ∨ o.toNat = 0x7 ∨ o.toNat = 0xD ∨ o.toNat = 0xE) :
      Reads o b (.error .reservedOpcode)
  | rxByte (b : Byte) : Reads 0x8 b (.ok (.rxByte b))
  | setHandler (b : Byte) : Reads 0xB b (decodeSetHandler b)
  | noImm {o : BitVec 4} (b : Byte) {i : Instr} (hw : (encode i).word = opWord o 0)
      (ho : o.toNat ≠ 0x0 ∧ o.toNat ≠ 0x7 ∧ o.toNat ≠ 0x8 ∧ o.toNat ≠ 0xB ∧ o.toNat ≠ 0xD ∧
        o.toNat ≠ 0xE) :
      Reads o b (withoutImm b i)

theorem decodeOpc_reads (o : BitVec 4) (b : Byte) (data : ByteSeq) (arg : Nat) :
    Reads o b (decodeOpc o b data arg) := by
  obtain ⟨n, hn, rfl⟩ : ∃ n < 16, o = BitVec.ofNat 4 n := ⟨o.toNat, o.isLt, by simp⟩
  interval_cases n
  · exact .reserved b (by decide)
  · exact .noImm b (i := .cobsEnc data) rfl (by decide)
  · exact .noImm b (i := .cobsDec data) rfl (by decide)
  · exact .noImm b (i := .cobsMax arg) rfl (by decide)
  · exact .noImm b (i := .slipEnc data) rfl (by decide)
  · exact .noImm b (i := .slipDec data) rfl (by decide)
  · exact .noImm b (i := .slipMax arg) rfl (by decide)
  · exact .reserved b (by decide)
  · exact .rxByte b
  · exact .noImm b (i := .rxDrain) rfl (by decide)
  · exact .noImm b (i := .rxOvf) rfl (by decide)
  · exact .setHandler b
  · exact .noImm b (i := .txSend data) rfl (by decide)
  · exact .reserved b (by decide)
  · exact .reserved b (by decide)
  · exact .noImm b (i := .reset) rfl (by decide)

theorem Reads.encode_word {o : BitVec 4} {b : Byte} {d : Except DecodeError Instr} {i : Instr}
    (h : Reads o b d) (hd : d = .ok i) : (encode i).word = opWord o b := by
  cases h with
  | reserved => cases hd
  | rxByte => cases hd; rfl
  | setHandler =>
    obtain ⟨v, rfl, rfl⟩ := decodeSetHandler_ok hd
    rfl
  | noImm _ hw =>
    obtain ⟨rfl, rfl⟩ := withoutImm_ok hd
    exact hw

/-- A request that decodes has `rsv = 0`, and its operation is read from its other fields. -/
theorem decode_ok {r : Request} {i : Instr} (h : decode r = .ok i) :
    rsvField r.word = 0 ∧ decodeOpc (opcField r.word) (imm8Field r.word) r.data r.arg = .ok i := by
  unfold decode at h
  split at h
  · exact ⟨‹_›, h⟩
  · cases h

/-- Settles O8: the fields of a word that decodes are those the encoder writes, and they make up the
whole word. -/
theorem encodeOfDecodeIsTheWord : Obligations.EncodeOfDecodeIsTheWord := by
  intro r i h
  obtain ⟨hrsv, hopc⟩ := decode_ok h
  rw [(decodeOpc_reads ..).encode_word hopc, opWord_of_fields hrsv]

/-! ### Illegal words -/

theorem withoutImm_error_iff (b : Byte) (i : Instr) :
    (∃ why, withoutImm b i = .error why) ↔ b.toNat ≠ 0 := by
  have hb : b = 0 ↔ b.toNat = 0 := BitVec.toNat_inj.symm
  rw [ne_eq, ← hb]
  by_cases h : b = 0
  · rw [withoutImm, if_pos h]
    exact iff_of_false (fun ⟨_, he⟩ => nomatch he) (not_not_intro h)
  · rw [withoutImm, if_neg h]
    exact iff_of_true ⟨_, rfl⟩ h

theorem decodeSetHandler_error_iff (b : Byte) :
    (∃ why, decodeSetHandler b = .error why) ↔ b.toNat / 128 = 0 ∧ b.toNat % 128 ≠ 0 := by
  have hh : hidField b = 0 ↔ b.toNat % 128 = 0 := by
    rw [← hidField_toNat]
    exact BitVec.toNat_inj.symm
  have hp : b.toNat / 128 = 0 ↔ ¬ presentField b = true := by
    rw [presentField_iff]
    omega
  rw [hp, ne_eq, ← hh]
  by_cases hpres : presentField b = true
  · rw [decodeSetHandler, if_pos hpres]
    exact iff_of_false (fun ⟨_, he⟩ => nomatch he) (fun h => h.1 hpres)
  · rw [decodeSetHandler, if_neg hpres]
    by_cases hhid : hidField b = 0
    · rw [if_pos hhid]
      exact iff_of_false (fun ⟨_, he⟩ => nomatch he) (fun h => h.2 hhid)
    · rw [if_neg hhid]
      exact iff_of_true ⟨_, rfl⟩ ⟨hpres, hhid⟩

theorem Reads.error_iff {o : BitVec 4} {b : Byte} {d : Except DecodeError Instr} (h : Reads o b d) :
    (∃ why, d = .error why) ↔
      (o.toNat = 0x0 ∨ o.toNat = 0x7 ∨ o.toNat = 0xD ∨ o.toNat = 0xE) ∨
      (b.toNat ≠ 0 ∧ o.toNat ≠ 0x8 ∧ o.toNat ≠ 0xB) ∨
      (o.toNat = 0xB ∧ b.toNat / 128 = 0 ∧ b.toNat % 128 ≠ 0) := by
  cases h with
  | reserved _ ho => simp [ho]
  | rxByte => simp
  | setHandler => simp [decodeSetHandler_error_iff]
  | noImm _ _ ho => simp [withoutImm_error_iff, ho]

theorem decode_error_iff (r : Request) :
    (∃ why, decode r = .error why) ↔ rsvField r.word ≠ 0 ∨
      ∃ why, decodeOpc (opcField r.word) (imm8Field r.word) r.data r.arg = .error why := by
  by_cases h : rsvField r.word = 0
  · rw [decode, if_pos h]
    exact (or_iff_right (not_not_intro h)).symm
  · rw [decode, if_neg h]
    exact iff_of_true ⟨_, rfl⟩ (.inl h)

/-- The four illegal cases of 30_encoding.md R96 as they stand in a word. -/
theorem decode_word_error_iff (w : Word16) (data : ByteSeq) (arg : Nat) :
    (∃ why, decode ⟨w, data, arg⟩ = .error why) ↔
      (w.toNat / 4096 = 0x0 ∨ w.toNat / 4096 = 0x7 ∨ w.toNat / 4096 = 0xD ∨ w.toNat / 4096 = 0xE ∨
        w.toNat / 256 % 16 ≠ 0 ∨
        (w.toNat % 256 ≠ 0 ∧ w.toNat / 4096 ≠ 0x8 ∧ w.toNat / 4096 ≠ 0xB) ∨
        (w.toNat / 4096 = 0xB ∧ w.toNat % 256 / 128 = 0 ∧ w.toNat % 128 ≠ 0)) := by
  have hrsv : rsvField w = 0 ↔ w.toNat / 256 % 16 = 0 := by
    rw [← rsvField_toNat]
    exact BitVec.toNat_inj.symm
  have himm : w.toNat % 256 % 128 = w.toNat % 128 := by omega
  rw [decode_error_iff, (decodeOpc_reads ..).error_iff, opcField_toNat, imm8Field_toNat, himm, ne_eq,
    hrsv]
  tauto

theorem runTurn_illegal {r : Request} {why : DecodeError} (h : decode r = .error why) (s : State) :
    runTurn (.issue r s) = .refused (.illegalWord why) := by
  simp only [runTurn, h]

/-- Settles O6: the cases of R96 are read off the word's fields, and the step reaches the word
whatever arrives. -/
theorem illegalWordsAreRefused : Obligations.IllegalWordsAreRefused := by
  refine fun w data arg => ⟨decode_word_error_iff w data arg, ?_⟩
  intro why hd s lines outer hwf hc
  rw [step_of_wf hwf, State.turn_of_op (s.arrive_calls.trans hc), runTurn_illegal hd]

/-! ### The configuration -/

/-- Settles O4: a step performs at most one operation, none of which writes a strap. -/
theorem configurationIsNeverWritten : Obligations.ConfigurationIsNeverWritten := by
  intro s t h
  obtain ⟨-, ht | ⟨i, u, hi, hu⟩⟩ := step_cases h
  · rw [ht]
  · have hcfg : t.cfg = u.cfg := (operationsWriteOnlyTheirState i u t hi).1
    rw [hcfg, hu]

/-! ### Lengths -/

theorem execTxSend_refused_operand {p : ByteSeq} {s : State}
    (h : fits s.cfg.lenw p.length = false) : execTxSend p s = .refused .lengthDoesNotFit := by
  simp [execTxSend, h]

theorem execTxSend_refused_encoded {p : ByteSeq} {s : State} (hp : p ≠ [])
    (hs : s.cfg.sinkEn = true) (h : fits s.cfg.lenw (encodePayload s.cfg p).length = false) :
    execTxSend p s = .refused .lengthDoesNotFit := by
  simp [execTxSend, h, hp, hs]

/-- Settles O32: every length of `2^w` or more fails the one test that all seven operations make. -/
theorem lengthsThatDoNotFitAreRefused : Obligations.LengthsThatDoNotFitAreRefused := by
  intro s w src n hw
  have hfits {m : Nat} (h : 2 ^ w ≤ m) : fits s.cfg.lenw m = false :=
    (fits_false_iff s.cfg m).2 ⟨w, hw, h⟩
  refine ⟨fun h => ?_, fun h => ?_, fun h => ?_, fun h => ?_, fun h hp hs => ?_⟩
  · have hsrc := hfits h
    exact ⟨answerSeq_refused (.inl hsrc), answerSeq_refused (.inl hsrc),
      answerSeq_refused (.inl hsrc), answerSeq_refused (.inl hsrc), execTxSend_refused_operand hsrc⟩
  · exact ⟨answerNat_refused (.inl (hfits h)), answerNat_refused (.inl (hfits h))⟩
  · exact answerSeq_refused (.inr (hfits h))
  · exact answerSeq_refused (.inr (hfits h))
  · exact execTxSend_refused_encoded hp hs (hfits h)

/-! ### `FEED`

Under a handler that issues nothing, what a byte does depends on nothing that has begun and not
ended, so it is the same in front of the rest of a `FEED` as on its own. -/

/-- An answer with the control stack of its next state replaced. -/
def Answer.withCalls (calls : List Activity) : Answer → Answer
  | .next t => .next (t.withCalls calls)
  | .fault f => .fault f
  | .refused r => .refused r

theorem State.withCalls_of_calls {s : State} {calls : List Activity} (h : s.calls = calls) :
    s.withCalls calls = s := by
  subst h
  rfl

theorem State.Quiet.dispatch_withCalls {s : State} (h : s.Quiet) (hid : Tag) (bytes : ByteSeq)
    (calls : List Activity) :
    (s.withCalls calls).dispatch hid bytes = (s.dispatch hid bytes).withCalls calls := by
  have hc : (s.withCalls calls).Quiet := h
  rw [hc.dispatch_eq, h.dispatch_eq]
  rfl

theorem rxStore_withCalls (b : Byte) (calls : List Activity) (s : State) :
    rxStore b (s.withCalls calls) = Answer.withCalls calls (rxStore b s) := by
  by_cases hr : s.cursor + 1 < s.cfg.capacity
  · have hc : (s.withCalls calls).cursor + 1 < (s.withCalls calls).cfg.capacity := hr
    rw [rxStore_room hc, rxStore_room hr]
    rfl
  · have hfull := Nat.not_lt.1 hr
    have hc : (s.withCalls calls).cfg.capacity ≤ (s.withCalls calls).cursor + 1 := hfull
    rw [rxStore_full hc, rxStore_full hfull]
    rfl

theorem State.Quiet.rxMarker_withCalls {s : State} (h : s.Quiet) (calls : List Activity) :
    rxMarker (s.withCalls calls) = Answer.withCalls calls (rxMarker s) := by
  have hf : (s.withCalls calls).frame = s.frame := rfl
  cases hh : s.hnd with
  | none => simp only [rxMarker, State.withCalls_hnd, hh]; rfl
  | some hid =>
    cases hfr : s.frame with
    | error f => simp only [rxMarker, State.withCalls_hnd, hh, hf, hfr, Answer.withCalls]
    | ok frame =>
      have hq : s.clear.Quiet := h
      rw [rxMarker_some (s := s.withCalls calls) hh (hf.trans hfr), rxMarker_some hh hfr]
      exact congrArg _ (hq.dispatch_withCalls hid _ calls)

theorem State.Quiet.rxConsume_withCalls {s : State} (h : s.Quiet) (b : Byte)
    (calls : List Activity) :
    rxConsume b (s.withCalls calls) = Answer.withCalls calls (rxConsume b s) := by
  by_cases hb : b = s.cfg.marker
  · simp only [rxConsume, State.withCalls_cfg, if_pos hb, h.rxMarker_withCalls]
  · simp only [rxConsume, State.withCalls_cfg, if_neg hb, rxStore_withCalls]

/-- A consumed byte at most uses up a reply, so a quiet handler stays quiet. -/
theorem State.Quiet.rxConsume {s t : State} (h : s.Quiet) {b : Byte}
    (ht : rxConsume b s = .next t) : t.Quiet := by
  rcases rxConsume_cases ht with ⟨-, -, rfl⟩ | ⟨hid, frame, -, -, -, rfl⟩ | ⟨-, -, rfl⟩ | ⟨-, -, rfl⟩
  · exact h
  · exact ⟨fun lines hl => h.1 lines (List.mem_of_mem_tail hl), h.2⟩
  · exact h
  · exact h

theorem State.NothingArrives.rxConsume {s t : State} (h : s.NothingArrives) {b : Byte}
    (ht : rxConsume b s = .next t) : t.NothingArrives := by
  obtain ⟨-, harr, harr', -⟩ := rxConsume_frame ht
  exact ⟨harr.trans h.1, harr'.trans h.2⟩

/-- A `FEED` line in front of the host's list is its byte consumed, with the rest of the list to
come. -/
theorem step_feedLine {s : State} (hwf : s.cfg.wf = true) (hq : s.Quiet) (hn : s.NothingArrives)
    (b : Byte) (lines : List HostLine) (outer : List Activity) :
    step (s.withCalls (.host (opLine (.rxByte b) :: lines) :: outer)) =
      Answer.withCalls (.host lines :: outer) (rxConsume b s) := by
  have hs : s.arrive = s := State.arrive_of_nothing hn.1 hn.2
  rw [opLine, step_withCalls_op hwf (decodeOfEncodeIsTheOperation _), hs]
  exact hq.rxConsume_withCalls b _

theorem steps_feedLines (bytes : ByteSeq) {s : State} (hwf : s.cfg.wf = true) (hq : s.Quiet)
    (hn : s.NothingArrives) (lines : List HostLine) (outer : List Activity) :
    steps bytes.length (s.withCalls (.host (feedLines bytes ++ lines) :: outer)) =
      feed bytes (s.withCalls (.host lines :: outer)) := by
  induction bytes generalizing s with
  | nil => rfl
  | cons b rest ih =>
    have hstep := step_feedLine hwf hq hn b (feedLines rest ++ lines) outer
    have hexec : exec (.rxByte b) (s.withCalls (.host lines :: outer)) =
        Answer.withCalls (.host lines :: outer) (rxConsume b s) := hq.rxConsume_withCalls b _
    simp only [List.length_cons, steps, feed, feedLines, List.map_cons, List.cons_append] at hstep ⊢
    rw [hstep, hexec]
    cases ht : rxConsume b s with
    | next t =>
      exact ih ((rxConsume_frame ht).1 ▸ hwf) (hq.rxConsume ht) (hn.rxConsume ht)
    | fault f => rfl
    | refused r => rfl

/-- Settles O46: byte by byte, a step performs the line's `RX_BYTE` and leaves the conditions as they
are. -/
theorem feedLinesRunAsFeed : Obligations.FeedLinesRunAsFeed := by
  intro bytes s lines outer hwf hq hn hc
  rw [← steps_feedLines bytes hwf hq hn lines outer, State.withCalls_of_calls hc]

end Sys2Proof.Machine
end

section
/-! PROOFS. The statements of 40_cobs_codec.md: what `COBS_ENC` writes (R112), what `COBS_DEC` makes of
any input (R115 to R117), `COBS_MAX` (R118), and the round trip (R119). -/

namespace Sys2Proof.Machine

/-! ### The groups of a payload

Each fact is proved from an open group on, in the cases of 30_encoding.md R83: the payload ends, a
zero closes the group, the 254th byte closes it, or the byte joins it. -/

theorem payloadGroupsFrom_ne_nil (group src : ByteSeq) : payloadGroupsFrom group src ≠ [] := by
  fun_induction payloadGroupsFrom group src with
  | case1 group => simp
  | case2 group rest => simp
  | case3 group b rest => simp
  | case4 group b rest hb hl ih => exact ih

/-- No group holds more than 254 bytes. -/
theorem length_le_of_mem_payloadGroupsFrom {group src : ByteSeq} (hg : group.length < 254) :
    ∀ g ∈ payloadGroupsFrom group src, g.length ≤ 254 := by
  fun_induction payloadGroupsFrom group src with
  | case1 group => simpa using hg.le
  | case2 group rest ih => exact List.forall_mem_cons.2 ⟨hg.le, ih (by simp)⟩
  | case3 group b rest hb hl ih => exact List.forall_mem_cons.2 ⟨by simp [hl], ih (by simp)⟩
  | case4 group b rest hb hl ih => exact ih (by simp; omega)

theorem zero_notMem_append_singleton {group : ByteSeq} {b : Byte} (hg : (0x00 : Byte) ∉ group)
    (hb : b ≠ 0x00) : (0x00 : Byte) ∉ group ++ [b] := by
  rw [List.mem_append, List.mem_singleton]
  exact not_or.2 ⟨hg, Ne.symm hb⟩

/-- A zero never becomes a group's data. -/
theorem zero_notMem_of_mem_payloadGroupsFrom {group src : ByteSeq} (hg : (0x00 : Byte) ∉ group) :
    ∀ g ∈ payloadGroupsFrom group src, (0x00 : Byte) ∉ g := by
  fun_induction payloadGroupsFrom group src with
  | case1 group => simpa using hg
  | case2 group rest ih => exact List.forall_mem_cons.2 ⟨hg, ih (by simp)⟩
  | case3 group b rest hb hl ih =>
    exact List.forall_mem_cons.2 ⟨zero_notMem_append_singleton hg hb, ih (by simp)⟩
  | case4 group b rest hb hl ih => exact ih (zero_notMem_append_singleton hg hb)

/-- The groups stand for the payload: a zero is put back exactly where one closed a group. -/
theorem blockPayload_payloadGroupsFrom {group src : ByteSeq} (hg : group.length < 254) :
    blockPayload (payloadGroupsFrom group src) = group ++ src := by
  have hne (rest : ByteSeq) : blockBytes (payloadGroupsFrom [] rest) ≠ [] :=
    mt (blockBytes_eq_nil_iff _).1 (payloadGroupsFrom_ne_nil [] rest)
  fun_induction payloadGroupsFrom group src with
  | case1 group => simp [blockPayload]
  | case2 group rest ih => simp [blockPayload_cons, hg.ne, hne, ih (by simp)]
  | case3 group b rest hb hl ih => simp [blockPayload_cons, hl, ih (by simp)]
  | case4 group b rest hb hl ih => simp [ih (by simp; omega)]

/-- A run of non-zero bytes that fills the open group closes it at once, and a group without data
stands after it. -/
theorem payloadGroupsFrom_of_filled {group src : ByteSeq} (hg : group.length < 254)
    (hlen : group.length + src.length = 254) (hz : (0x00 : Byte) ∉ src) :
    payloadGroupsFrom group src = [group ++ src, []] := by
  fun_induction payloadGroupsFrom group src with
  | case1 group => simp at hlen; omega
  | case2 group rest ih => simp at hz
  | case3 group b rest hb hl ih =>
    obtain rfl : rest = [] := List.length_eq_zero_iff.1 (by simp at hlen; omega)
    rfl
  | case4 group b rest hb hl ih =>
    simpa using ih (by simp; omega) (by simp at hlen ⊢; omega) (fun h => hz (.tail _ h))

/-! ### Full groups -/

/-- How many groups of a list are full: `fullGroups` for groups of any origin. -/
def fullCount (groups : List ByteSeq) : Nat :=
  (groups.filter (fun g => decide (g.length = 254))).length

theorem fullGroups_eq (src : ByteSeq) : fullGroups src = fullCount (payloadGroupsFrom [] src) := rfl

@[simp] theorem fullCount_nil : fullCount [] = 0 := rfl

theorem fullCount_cons (g : ByteSeq) (groups : List ByteSeq) :
    fullCount (g :: groups) = fullCount groups + if g.length = 254 then 1 else 0 := by
  by_cases h : g.length = 254 <;> simp [fullCount, h]

/-- 40_cobs_codec.md R112 (b): a zero that closes a group is made up for by the next code byte, so
only the first code byte and those after full groups add to the length. -/
theorem blockBytes_payloadGroupsFrom_length {group src : ByteSeq} (hg : group.length < 254) :
    (blockBytes (payloadGroupsFrom group src)).length =
      group.length + src.length + 1 + fullCount (payloadGroupsFrom group src) := by
  fun_induction payloadGroupsFrom group src with
  | case1 group => simp [groupBytes, fullCount_cons, hg.ne]
  | case2 group rest ih =>
    simp [groupBytes, fullCount_cons, hg.ne, ih (by simp)]; omega
  | case3 group b rest hb hl ih =>
    simp [groupBytes, fullCount_cons, hl, ih (by simp)]; omega
  | case4 group b rest hb hl ih =>
    rw [ih (by simp; omega)]; simp; omega

/-- 40_cobs_codec.md R112 (c): a full group uses up 254 payload bytes of its own. -/
theorem fullCount_payloadGroupsFrom_le {group src : ByteSeq} (hg : group.length < 254) :
    254 * fullCount (payloadGroupsFrom group src) ≤ group.length + src.length := by
  fun_induction payloadGroupsFrom group src with
  | case1 group => simp [fullCount_cons, hg.ne]
  | case2 group rest ih =>
    have := ih (by simp)
    simp [fullCount_cons, hg.ne] at this ⊢
    omega
  | case3 group b rest hb hl ih =>
    have := ih (by simp)
    simp [fullCount_cons, hl] at this ⊢
    omega
  | case4 group b rest hb hl ih =>
    have := ih (by simp; omega)
    simp at this ⊢
    omega

/-- Without zeros only the 254th byte closes a group before the payload ends. -/
theorem fullCount_payloadGroupsFrom_of_zeroFree {group src : ByteSeq} (hg : group.length < 254)
    (hz : (0x00 : Byte) ∉ src) :
    fullCount (payloadGroupsFrom group src) = (group.length + src.length) / 254 := by
  fun_induction payloadGroupsFrom group src with
  | case1 group => simp [fullCount_cons, hg.ne, Nat.div_eq_of_lt hg]
  | case2 group rest ih => simp at hz
  | case3 group b rest hb hl ih =>
    have := ih (by simp) (fun h => hz (.tail _ h))
    simp [fullCount_cons, hl] at this ⊢
    omega
  | case4 group b rest hb hl ih =>
    have := ih (by simp; omega) (fun h => hz (.tail _ h))
    simp at this ⊢
    omega

theorem fullGroups_le (src : ByteSeq) : fullGroups src ≤ src.length / 254 := by
  have := fullCount_payloadGroupsFrom_le (group := []) (src := src) (by simp)
  rw [List.length_nil, ← fullGroups_eq] at this
  omega

theorem fullGroups_of_zeroFree {src : ByteSeq} (hz : (0x00 : Byte) ∉ src) :
    fullGroups src = src.length / 254 := by
  simpa [fullGroups_eq] using fullCount_payloadGroupsFrom_of_zeroFree (group := []) (by simp) hz

/-! ### `COBS_ENC` -/

theorem cobsEncode_eq (src : ByteSeq) : cobsEncode src = blockBytes (payloadGroupsFrom [] src) :=
  cobsEncoderWritesTheWireFormat src

theorem cobsEncode_ne_nil (src : ByteSeq) : cobsEncode src ≠ [] := by
  rw [cobsEncode_eq, ne_eq, blockBytes_eq_nil_iff]
  exact payloadGroupsFrom_ne_nil [] src

theorem cobsEncode_length (src : ByteSeq) :
    (cobsEncode src).length = src.length + 1 + fullGroups src := by
  rw [cobsEncode_eq, blockBytes_payloadGroupsFrom_length (by simp), fullGroups_eq, List.length_nil,
    Nat.zero_add]

theorem cobsEncode_length_le (src : ByteSeq) :
    (cobsEncode src).length ≤ src.length + src.length / 254 + 1 := by
  have := fullGroups_le src
  rw [cobsEncode_length]
  omega

/-- Zero-free payloads are the worst case at every length. -/
theorem cobsEncode_length_of_zeroFree {src : ByteSeq} (hz : (0x00 : Byte) ∉ src) :
    (cobsEncode src).length = src.length + src.length / 254 + 1 := by
  rw [cobsEncode_length, fullGroups_of_zeroFree hz]
  omega

/-- A whole group's code byte is 1 to 255. -/
theorem zero_notMem_groupBytes {g : ByteSeq} (hl : g.length ≤ 254) (hz : (0x00 : Byte) ∉ g) :
    (0x00 : Byte) ∉ groupBytes g := by
  have hc : (0x00 : Byte) ≠ BitVec.ofNat 8 (g.length + 1) := by
    intro h
    have := congrArg BitVec.toNat h
    rw [groupCode_toNat hl] at this
    cases this
  simp only [groupBytes, List.mem_cons, not_or]
  exact ⟨hc, hz⟩

/-- Settles O17: neither the code bytes nor the data of the payload's groups are zero. -/
theorem cobsEncodedBlockIsZeroFree : Obligations.CobsEncodedBlockIsZeroFree := by
  intro src hmem
  rw [cobsEncode_eq, blockBytes, List.mem_flatMap] at hmem
  obtain ⟨g, hg, hmem⟩ := hmem
  exact zero_notMem_groupBytes (length_le_of_mem_payloadGroupsFrom (by simp) g hg)
    (zero_notMem_of_mem_payloadGroupsFrom (by simp) g hg) hmem

/-- Settles O18: the length counts the full groups, of which a zero-free payload has the most. -/
theorem cobsEncodedLength : Obligations.CobsEncodedLength := by
  refine fun src => ⟨cobsEncode_length src, cobsEncode_length_le src, fun m hm hz => ?_⟩
  rw [cobsEncode_length_of_zeroFree hz, hm, Nat.mul_div_cancel_left m (by decide)]

/-! ### `COBS_DEC` -/

/-- Whole groups with anything after them give their payload and the zero before the next group, as
if a group without data followed; the decode then goes on with the rest. -/
theorem cobsDecLoop_blockBytes_append {groups : List ByteSeq} (h : ∀ g ∈ groups, g.length ≤ 254)
    (c : Byte) (tail dst : ByteSeq) (rounds : Nat) :
    cobsDecLoop (groups.length + rounds) (blockBytes groups ++ c :: tail) dst =
      cobsDecLoop rounds (c :: tail) (dst ++ blockPayload (groups ++ [[]])) := by
  induction groups generalizing dst with
  | nil => simp [blockPayload]
  | cons g groups ih =>
    obtain ⟨hg, hgs⟩ := List.forall_mem_cons.1 h
    have hne : blockBytes (groups ++ [[]]) ≠ [] := by simp [blockBytes_eq_nil_iff]
    rw [blockBytes_cons, List.append_assoc, List.length_cons, Nat.succ_add, cobsDecLoop_group hg,
      ih hgs, List.cons_append, blockPayload_cons]
    simp [hne]

theorem cobsDecode_blockBytes_append {groups : List ByteSeq} (h : ∀ g ∈ groups, g.length ≤ 254)
    (c : Byte) (tail : ByteSeq) :
    cobsDecode (blockBytes groups ++ c :: tail) =
      cobsDecLoop (tail.length + 1) (c :: tail) (blockPayload (groups ++ [[]])) := by
  have hlen := length_le_blockBytes_length groups
  calc cobsDecode (blockBytes groups ++ c :: tail)
      = cobsDecLoop (groups.length + (tail.length + (blockBytes groups).length + 1))
          (blockBytes groups ++ c :: tail) [] :=
        cobsDecLoop_rounds _ _ _ _ le_rfl
          (by simp only [List.length_append, List.length_cons]; omega)
    _ = cobsDecLoop (tail.length + (blockBytes groups).length + 1) (c :: tail)
          (blockPayload (groups ++ [[]])) := cobsDecLoop_blockBytes_append h c tail [] _
    _ = cobsDecLoop (tail.length + 1) (c :: tail) (blockPayload (groups ++ [[]])) :=
        cobsDecLoop_rounds _ _ _ _ (by simp) (by simp)

/-- Settles O19: the decode comes to the code byte, and its failure test discards what it has. -/
theorem cobsDecodeRejectsATruncatedGroup : Obligations.CobsDecodeRejectsATruncatedGroup := by
  intro groups c tail h hc hlen
  have hf : cobsDecFails c (tail.length + 1) = true := decide_eq_true ⟨hc, hlen⟩
  have hfail : cobsDecode (blockBytes groups ++ c :: tail) = .fail := by
    rw [cobsDecode_blockBytes_append h, cobsDecLoop_cons, if_pos hf]
  exact ⟨hfail, by rw [hfail]; rfl⟩

/-- The two code bytes agree in the failure test, in having no data, and in the zero after it. -/
theorem cobsDecLoop_zero_eq_one (rounds : Nat) (tail dst : ByteSeq) :
    cobsDecLoop (rounds + 1) (0x00 :: tail) dst = cobsDecLoop (rounds + 1) (0x01 :: tail) dst := by
  have hf : cobsDecFails 0x00 (tail.length + 1) = cobsDecFails 0x01 (tail.length + 1) := by
    simp [cobsDecFails]
  have hn : (0x00 : Byte).toNat - 1 = (0x01 : Byte).toNat - 1 := rfl
  have hz (rest : ByteSeq) : cobsDecZero 0x00 rest = cobsDecZero 0x01 rest := by simp [cobsDecZero]
  rw [cobsDecLoop_cons, cobsDecLoop_cons, hf, hn, hz]

/-- Settles O20: the decode comes to the code byte with the same bytes appended. -/
theorem cobsCodeZeroActsAsCodeOne : Obligations.CobsCodeZeroActsAsCodeOne := by
  intro groups tail h
  rw [cobsDecode_blockBytes_append h, cobsDecode_blockBytes_append h, cobsDecLoop_zero_eq_one]

theorem cobsDecLoop_nil (rounds : Nat) (dst : ByteSeq) : cobsDecLoop rounds [] dst = .ok dst := by
  cases rounds <;> rfl

theorem cobsDecZero_length_le (c : Byte) (rest : ByteSeq) : (cobsDecZero c rest).length ≤ 1 := by
  unfold cobsDecZero
  split <;> simp

/-- Each round takes a code byte and appends at most one zero for it, the last round none. -/
theorem cobsDecLoop_bytes_length (rounds : Nat) {src : ByteSeq} (hsrc : src ≠ []) (dst : ByteSeq) :
    (cobsDecLoop rounds src dst).bytes.length + 1 ≤ dst.length + src.length := by
  induction rounds generalizing src dst with
  | zero =>
    have := List.length_pos_of_ne_nil hsrc
    simp only [cobsDecLoop, Decoded.bytes]
    omega
  | succ rounds ih =>
    obtain ⟨c, tail, rfl⟩ := List.exists_cons_of_ne_nil hsrc
    rw [cobsDecLoop_cons]
    split
    · exact Nat.succ_le_of_lt (by simp [Decoded.bytes])
    · by_cases hrest : tail.drop (c.toNat - 1) = []
      · simp [hrest, cobsDecLoop_nil, cobsDecZero, Decoded.bytes]
      · have hloop := ih hrest (dst ++ tail.take (c.toNat - 1) ++
          cobsDecZero c (tail.drop (c.toNat - 1)))
        have hzero := cobsDecZero_length_le c (tail.drop (c.toNat - 1))
        simp only [List.length_append, List.length_take, List.length_drop, List.length_cons]
          at hloop ⊢
        omega

/-- Settles O21: nothing is appended before the first round. -/
theorem cobsDecodedIsShorter : Obligations.CobsDecodedIsShorter := by
  intro src hsrc
  simpa [cobsDecode] using cobsDecLoop_bytes_length src.length hsrc []

theorem cobsDecode_bytes_length_le (src : ByteSeq) :
    (cobsDecode src).bytes.length ≤ src.length := by
  by_cases h : src = []
  · subst h; rfl
  · have := cobsDecodedIsShorter src h
    omega

/-! ### The round trip -/

theorem cobsDecode_cobsEncode (src : ByteSeq) : cobsDecode (cobsEncode src) = .ok src := by
  rw [cobsEncode_eq,
    cobsDecoderReadsTheWireFormat _ (length_le_of_mem_payloadGroupsFrom (by simp)),
    blockPayload_payloadGroupsFrom (by simp), List.nil_append]

theorem groupBytes_of_full {d : ByteSeq} (h : d.length = 254) : groupBytes d = 0xFF :: d := by
  rw [groupBytes, (groupCode_full h.le).2 h]

/-- A full group alone is a block of its own, though the encoder puts a group without data after
it. -/
theorem cobsDecode_full_group {d : ByteSeq} (h : d.length = 254) :
    cobsDecode (0xFF :: d) = .ok d := by
  have := cobsDecoderReadsTheWireFormat [d] (by simp [h])
  simpa [groupBytes_of_full h, blockPayload] using this

theorem cobsEncode_full_group {d : ByteSeq} (h : d.length = 254) (hz : (0x00 : Byte) ∉ d) :
    cobsEncode d = 0xFF :: (d ++ [0x01]) := by
  rw [cobsEncode_eq, payloadGroupsFrom_of_filled (by simp) (by simpa using h) hz]
  have hempty : groupBytes [] = [0x01] := rfl
  simp only [blockBytes_cons, blockBytes_nil, groupBytes_of_full h, hempty, List.nil_append,
    List.cons_append, List.append_nil]

/-- Settles O16: the encoder's groups are whole and stand for the payload, so the decode is empty
only for the block of the empty payload. -/
theorem cobsDecodeInvertsEncode : Obligations.CobsDecodeInvertsEncode := by
  refine ⟨cobsDecode_cobsEncode,
    fun d hd hz => ⟨cobsDecode_full_group hd, cobsEncode_full_group hd hz⟩, ⟨rfl, rfl⟩,
    fun s => ⟨cobsEncode_ne_nil s, fun h => ?_⟩⟩
  rw [cobsDecode_cobsEncode] at h
  cases h
  rfl

/-! ### The operations -/

/-- Settles O22: the decoded sequence fits wherever its input does. -/
theorem cobsEncAndDecAnswer : Obligations.CobsEncAndDecAnswer := fun src _ h =>
  ⟨answerSeq_of_fits h, answerSeq_of_fits h (h.mono (cobsDecode_bytes_length_le src))⟩

/-- Settles O23: the operand fits wherever the answer does, and `n` equal non-zero bytes have the
longest block. -/
theorem cobsMaxAnswersTheWorstCase : Obligations.CobsMaxAnswersTheWorstCase := by
  intro n
  refine ⟨fun data => decode_opWord 0x3 0 data n, fun s h => ?_, fun s w hw hn => ?_,
    fun src hsrc => ?_, List.replicate n 0x01, List.length_replicate, ?_⟩
  · exact answerNat_of_fits (h.mono (by omega)) h
  · exact answerNat_refused (.inr ((fits_false_iff _ _).2 ⟨w, hw, hn⟩))
  · exact hsrc ▸ cobsEncode_length_le src
  · rw [cobsEncode_length_of_zeroFree (by simp [List.mem_replicate]), List.length_replicate]

end Sys2Proof.Machine
end

section
/-! PROOFS. The statements of 41_slip_codec.md: the round trip (R141), what `SLIP_ENC` writes (R133),
what `SLIP_DEC` makes of any input (R136 to R139), and the three operations (R132, R135, R140). -/

namespace Sys2Proof.Machine

/-! ### The round trip -/

theorem slipDecode_end (trail : SlipTrailEsc) (rest : ByteSeq) :
    slipDecode trail (slipEnd :: rest) = slipDecode trail rest := slipDecLoop_end trail rest []

/-- The symbols of a payload append the payload, symbol by symbol. -/
theorem slipDecLoop_slipSymbols (trail : SlipTrailEsc) (src dst : ByteSeq) :
    slipDecLoop trail (src.flatMap slipSymbol) dst = .ok (dst ++ src) := by
  induction src generalizing dst with
  | nil => simp [slipDecLoop]
  | cons b src ih => simp [slipDecLoop_symbol, ih]

theorem slipDecode_slipEncode (trail : SlipTrailEsc) (src : ByteSeq) :
    slipDecode trail (slipEncode src) = .ok src := by
  rw [slipEncode, slipDecode_end, slipDecode, slipDecLoop_slipSymbols, List.nil_append]

/-- Settles O25: the leading `END` writes nothing, and each symbol gives its byte back. -/
theorem slipDecodeInvertsEncode : Obligations.SlipDecodeInvertsEncode :=
  ⟨slipDecode_slipEncode, fun _ => rfl, rfl⟩

/-! ### `SLIP_ENC` -/

/-- A payload byte's symbol is the byte itself, or an `ESC` and one of its two continuations. -/
theorem slipSymbol_cases (b : Byte) :
    (¬ (b = slipEnd ∨ b = slipEsc) ∧ slipSymbol b = [b]) ∨
      ((b = slipEnd ∨ b = slipEsc) ∧
        ∃ nb, (nb = slipEscEnd ∨ nb = slipEscEsc) ∧ slipSymbol b = [slipEsc, nb]) := by
  by_cases hend : b = slipEnd
  · exact .inr ⟨.inl hend, slipEscEnd, .inl rfl, if_pos hend⟩
  · by_cases hesc : b = slipEsc
    · exact .inr ⟨.inr hesc, slipEscEsc, .inr rfl, (if_neg hend).trans (if_pos hesc)⟩
    · exact .inl ⟨not_or.2 ⟨hend, hesc⟩, (if_neg hend).trans (if_neg hesc)⟩

theorem slipEnd_notMem_slipSymbol (b : Byte) : slipEnd ∉ slipSymbol b := by
  rcases slipSymbol_cases b with ⟨hb, h⟩ | ⟨-, nb, rfl | rfl, h⟩
  · rw [h, List.mem_singleton]
    exact fun he => hb (.inl he.symm)
  · rw [h]; decide
  · rw [h]; decide

theorem slipEnd_notMem_slipSymbols (src : ByteSeq) : slipEnd ∉ src.flatMap slipSymbol := by
  rw [List.mem_flatMap]
  rintro ⟨b, -, hb⟩
  exact slipEnd_notMem_slipSymbol b hb

theorem slipSymbol_length (b : Byte) :
    (slipSymbol b).length = if b = slipEnd ∨ b = slipEsc then 2 else 1 := by
  rcases slipSymbol_cases b with ⟨hb, h⟩ | ⟨hb, nb, -, h⟩
  · rw [h, if_neg hb]; rfl
  · rw [h, if_pos hb]; rfl

theorem slipEscapes_cons (b : Byte) (src : ByteSeq) :
    slipEscapes (b :: src) = slipEscapes src + if b = slipEnd ∨ b = slipEsc then 1 else 0 := by
  by_cases h : b = slipEnd ∨ b = slipEsc <;> simp [slipEscapes, h]

theorem slipEscapes_le (src : ByteSeq) : slipEscapes src ≤ src.length := List.length_filter_le ..

theorem slipSymbols_length (src : ByteSeq) :
    (src.flatMap slipSymbol).length = src.length + slipEscapes src := by
  induction src with
  | nil => rfl
  | cons b src ih =>
    rw [List.flatMap_cons, List.length_append, slipSymbol_length, ih, slipEscapes_cons,
      List.length_cons]
    split <;> omega

theorem slipEncode_length (src : ByteSeq) :
    (slipEncode src).length = 1 + src.length + slipEscapes src := by
  rw [slipEncode, List.length_cons, slipSymbols_length]
  omega

theorem slipEncode_length_le (src : ByteSeq) : (slipEncode src).length ≤ 2 * src.length + 1 := by
  have := slipEscapes_le src
  rw [slipEncode_length]
  omega

/-- Wherever an `ESC` stands among a payload's symbols it begins one: an ordinary byte is no `ESC`, and
neither is a continuation. -/
theorem slipEsc_begins_a_pair {src before after : ByteSeq}
    (h : src.flatMap slipSymbol = before ++ slipEsc :: after) :
    ∃ nb rest, after = nb :: rest ∧ (nb = slipEscEnd ∨ nb = slipEscEsc) := by
  induction src generalizing before with
  | nil => simp at h
  | cons b src ih =>
    rw [List.flatMap_cons] at h
    rcases slipSymbol_cases b with ⟨hb, hsym⟩ | ⟨-, nb, hnb, hsym⟩
    · rw [hsym] at h
      cases before with
      | nil => exact absurd (.inr (List.cons.inj h).1) hb
      | cons _ before => exact ih (List.cons.inj h).2
    · rw [hsym] at h
      match before with
      | [] => exact ⟨nb, _, (List.cons.inj h).2.symm, hnb⟩
      | [_] =>
        have hesc : nb = slipEsc := (List.cons.inj (List.cons.inj h).2).1
        subst hesc
        exact absurd hnb (by decide)
      | _ :: _ :: before => exact ih (List.cons.inj (List.cons.inj h).2).2

/-- Settles O24: the leading `END` is no `ESC`, so each `ESC` stands among the symbols. -/
theorem slipEncodedFrameShape : Obligations.SlipEncodedFrameShape := by
  refine fun src => ⟨⟨_, rfl, slipEnd_notMem_slipSymbols src⟩, slipEncode_length src,
    slipEncode_length_le src, fun before after h => ?_⟩
  cases before with
  | nil => exact absurd (List.cons.inj h).1 (by decide)
  | cons _ before => exact slipEsc_begins_a_pair (List.cons.inj h).2

/-! ### `SLIP_DEC` -/

/-- The decoder only appends, so what it has appended already stands in front of whatever follows. -/
theorem slipDecLoop_prepend (trail : SlipTrailEsc) (src before dst : ByteSeq) :
    slipDecLoop trail src (before ++ dst) = (slipDecLoop trail src dst).prepend before := by
  induction src using slip_units generalizing dst with
  | nil => rfl
  | stop rest ih => rw [slipDecLoop_end, slipDecLoop_end, ih]
  | lone => rw [slipDecLoop_esc, slipDecLoop_esc]; cases trail <;> rfl
  | pair nb rest ih => rw [slipDecLoop_pair, slipDecLoop_pair, List.append_assoc, ih]
  | ordinary b rest hend hesc ih =>
    rw [slipDecLoop_ordinary trail hend hesc, slipDecLoop_ordinary trail hend hesc,
      List.append_assoc, ih]

/-- Under `ZERO` a decode that succeeds leaves no `ESC` waiting, so under either value of
`SLIP_TRAIL_ESC` the decoder comes past this input with the same bytes appended. -/
theorem slipDecLoop_append {before dst decoded : ByteSeq}
    (h : slipDecLoop .zero before dst = .ok decoded) (trail : SlipTrailEsc) (after : ByteSeq) :
    slipDecLoop trail (before ++ after) dst = slipDecLoop trail after decoded := by
  induction before using slip_units generalizing dst with
  | nil => cases h; rfl
  | stop rest ih =>
    rw [slipDecLoop_end] at h
    rw [List.cons_append, slipDecLoop_end, ih h]
  | lone => cases h
  | pair nb rest ih =>
    rw [slipDecLoop_pair] at h
    rw [List.cons_append, List.cons_append, slipDecLoop_pair, ih h]
  | ordinary b rest hend hesc ih =>
    rw [slipDecLoop_ordinary _ hend hesc] at h
    rw [List.cons_append, slipDecLoop_ordinary _ hend hesc, ih h]

/-- After an input with no pending `ESC` the decode of what follows is that of a fresh input, with
what came before in front. -/
theorem slipDecode_append {before decoded : ByteSeq} (h : slipDecode .zero before = .ok decoded)
    (trail : SlipTrailEsc) (after : ByteSeq) :
    slipDecode trail (before ++ after) = (slipDecode trail after).prepend decoded := by
  rw [slipDecode, slipDecLoop_append h, slipDecode, ← slipDecLoop_prepend, List.append_nil]

theorem slipDecode_invalid_pair {nb : Byte} (hend : nb ≠ slipEscEnd) (hesc : nb ≠ slipEscEsc)
    (trail : SlipTrailEsc) (rest : ByteSeq) :
    slipDecode trail (slipEsc :: nb :: rest) = slipDecode trail rest := by
  have hnone : slipContinuation nb = [] := (if_neg hend).trans (if_neg hesc)
  rw [slipDecode, slipDecLoop_pair, hnone, List.append_nil, slipDecode]

/-- Settles O26: the pair writes nothing in the decode that begins with it. -/
theorem slipDecodeDropsAnInvalidPair : Obligations.SlipDecodeDropsAnInvalidPair := by
  refine ⟨fun trail before decoded nb after h hend hesc => ?_, fun _ => ⟨rfl, rfl⟩⟩
  rw [slipDecode_append h, slipDecode_invalid_pair hend hesc]

/-- Settles O27: a lone `ESC` decodes to the empty sequence under `DROP` and fails under `ZERO`. -/
theorem slipTrailingEscFollowsTheParameter : Obligations.SlipTrailingEscFollowsTheParameter := by
  intro before decoded h
  have hdrop : slipDecode .drop [slipEsc] = .ok [] := rfl
  have hzero : slipDecode .zero [slipEsc] = .fail := rfl
  rw [slipDecode_append h, slipDecode_append h, hdrop, hzero, Decoded.prepend, List.append_nil]
  exact ⟨rfl, rfl, rfl⟩

/-- Settles O28: the `END` writes nothing in the decode that begins with it. -/
theorem slipDecodeSkipsEveryEnd : Obligations.SlipDecodeSkipsEveryEnd := by
  refine ⟨fun trail before decoded after h => ?_, fun _ => ⟨rfl, rfl, rfl⟩⟩
  rw [slipDecode_append h, slipDecode_end]

theorem slipContinuation_length_le (nb : Byte) : (slipContinuation nb).length ≤ 1 := by
  unfold slipContinuation
  split
  · simp
  · split <;> simp

/-- A pair appends at most one byte for two, and no other unit more than it takes. -/
theorem slipDecLoop_bytes_length_le (trail : SlipTrailEsc) (src dst : ByteSeq) :
    (slipDecLoop trail src dst).bytes.length ≤ dst.length + src.length := by
  induction src using slip_units generalizing dst with
  | nil => exact le_rfl
  | stop rest ih =>
    rw [slipDecLoop_end]
    exact (ih dst).trans (by simp)
  | lone => rw [slipDecLoop_esc]; cases trail <;> simp [slipTrailing, Decoded.bytes]
  | pair nb rest ih =>
    have hnb := slipContinuation_length_le nb
    rw [slipDecLoop_pair]
    exact (ih _).trans (by simp; omega)
  | ordinary b rest hend hesc ih =>
    rw [slipDecLoop_ordinary trail hend hesc]
    exact (ih _).trans (by simp; omega)

/-- Settles O29: nothing is appended before the first unit. -/
theorem slipDecodedIsNoLonger : Obligations.SlipDecodedIsNoLonger := fun trail src =>
  (slipDecLoop_bytes_length_le trail src []).trans_eq (Nat.zero_add _)

/-! ### The operations -/

/-- Settles O31: the operand fits wherever the answer does, and the bound is one more than that of
R133. -/
theorem slipMaxAnswersTheBound : Obligations.SlipMaxAnswersTheBound := by
  refine fun n => ⟨fun data => decode_opWord 0x6 0 data n, fun s h => ?_, fun s w hw hn => ?_,
    fun src hsrc => ?_⟩
  · exact answerNat_of_fits (h.mono (by omega)) h
  · exact answerNat_refused (.inr ((fits_false_iff _ _).2 ⟨w, hw, hn⟩))
  · exact hsrc ▸ (slipEncode_length_le src).trans (Nat.le_succ _)

/-- Settles O30: the decoded sequence fits wherever its input does. -/
theorem slipEncAndDecAnswer : Obligations.SlipEncAndDecAnswer := fun src _ h =>
  ⟨answerSeq_of_fits h, answerSeq_of_fits h (h.mono (slipDecodedIsNoLonger _ src))⟩

end Sys2Proof.Machine
end

section
/-! PROOFS. The statements of 42_reassembler.md: `RX_BYTE` (R151 to R159), what a fed frame becomes
(R156 to R158, R165), the loopback (R166, R167), `RX_DRAIN` (R160), `RX_OVF` and `SET_HANDLER` (R162,
R164), and that what is emitted stays emitted (R155). -/

namespace Sys2Proof.Machine

/-! ### One received byte -/

/-- Without room, a byte that is not the marker is dropped (42_reassembler.md R152). -/
theorem rxConsume_full {b : Byte} {s : State} (hb : b ≠ s.cfg.marker)
    (hfull : s.cfg.capacity ≤ s.cursor + 1) : rxConsume b s = .next s.dropped :=
  (if_neg hb).trans (rxStore_full hfull)

theorem rxConsume_marker (s : State) : rxConsume s.cfg.marker s = rxMarker s := if_pos rfl

/-- Whatever else a marker does, it clears the block (42_reassembler.md R153). -/
theorem rxConsume_marker_cleared {s t : State} (h : rxConsume s.cfg.marker s = .next t) :
    t.Cleared := by
  rcases rxConsume_cases h with ⟨-, -, rfl⟩ | ⟨hid, frame, -, -, -, rfl⟩ | ⟨hb, -, -⟩ | ⟨hb, -, -⟩
  · exact ⟨rfl, rfl⟩
  · exact ⟨rfl, rfl⟩
  · exact absurd rfl hb
  · exact absurd rfl hb

/-- Settles O34: a store is a write at `CURSOR`, which reads back there and leaves every other index
alone. -/
theorem nonMarkerByteIsStoredOrDropped : Obligations.NonMarkerByteIsStoredOrDropped := fun s b hb =>
  ⟨fun hr => ⟨Memory.write s.rxbuf s.cursor b, rxConsume_room hb hr,
      Memory.read_write_same s.rxbuf s.cursor b, fun _ => Memory.read_write_other s.rxbuf b⟩,
    rxConsume_full hb⟩

/-- Settles O35: the dispatch calls the handler in the cleared state with the event emitted, of which
neither its lines nor the host's variables depend on what is cleared. -/
theorem markerDecodesClearsAndDispatches : Obligations.MarkerDecodesClearsAndDispatches := fun s =>
  ⟨fun _ _ hh hf => (rxConsume_marker s).trans (rxMarker_some hh hf),
    fun hh => (rxConsume_marker s).trans (rxMarker_none hh)⟩

/-! ### Feeding -/

theorem exec_rxByte (b : Byte) (s : State) : exec (.rxByte b) s = rxConsume b s := rfl

theorem feed_cons_of_next {b : Byte} {s t : State} (h : rxConsume b s = .next t) (rest : ByteSeq) :
    feed (b :: rest) s = feed rest t := by
  simp only [feed, exec_rxByte, h]

theorem feed_singleton_of_next {b : Byte} {s t : State} (h : rxConsume b s = .next t) :
    feed [b] s = .next t := feed_cons_of_next h []

/-- A feed that goes on is its first byte consumed and the rest fed. -/
theorem feed_cons_cases {b : Byte} {rest : ByteSeq} {s u : State}
    (h : feed (b :: rest) s = .next u) : ∃ t, rxConsume b s = .next t ∧ feed rest t = .next u := by
  rw [feed, exec_rxByte] at h
  split at h
  · rename_i t ht
    exact ⟨t, ht, h⟩
  · cases h
  · cases h

theorem feed_append_of_next {before : ByteSeq} {s t : State} (h : feed before s = .next t)
    (after : ByteSeq) : feed (before ++ after) s = feed after t := by
  induction before generalizing s with
  | nil => cases h; rfl
  | cons b rest ih =>
    obtain ⟨u, hu, hrest⟩ := feed_cons_cases h
    rw [List.cons_append, feed_cons_of_next hu, ih hrest]

theorem State.Quiet.feed {bytes : ByteSeq} {s t : State} (h : s.Quiet)
    (ht : feed bytes s = .next t) : t.Quiet := by
  induction bytes generalizing s with
  | nil => cases ht; exact h
  | cons b rest ih =>
    obtain ⟨u, hu, hrest⟩ := feed_cons_cases ht
    exact ih (h.rxConsume hu) hrest

/-! ### An unfinished frame

`Buffered` is kept by each further byte that is not the marker; what a marker then does is read off
it. -/

/-- `Buffered s bytes t`: the good state `t` has the first `CAPACITY - 1` of `bytes` as its frame,
says in `OVF` whether more came, and is `s` otherwise (42_reassembler.md R152, R156). -/
structure Buffered (s : State) (bytes : ByteSeq) (t : State) : Prop where
  inv : t.Inv
  frame : t.frame = .ok (bytes.take (s.cfg.capacity - 1))
  ovf : t.ovf = decide (s.cfg.capacity ≤ bytes.length)
  rest : t = { s with rxbuf := t.rxbuf, cursor := t.cursor, ovf := t.ovf }

namespace Buffered

variable {s t : State} {bytes : ByteSeq}

theorem cfg_eq (h : Buffered s bytes t) : t.cfg = s.cfg := by rw [h.rest]

theorem hnd_eq (h : Buffered s bytes t) : t.hnd = s.hnd := by rw [h.rest]

theorem cursor_eq (h : Buffered s bytes t) : t.cursor = min bytes.length (s.cfg.capacity - 1) := by
  rw [← (memReadRange_ok h.frame).1, List.length_take, Nat.min_comm]

theorem nil (hi : s.Inv) (hc : s.Cleared) : Buffered s [] s where
  inv := hi
  frame := by rw [State.frame, hc.1, List.take_nil]; rfl
  ovf := by
    have := hi.capacity_ge
    rw [hc.2, eq_comm, decide_eq_false_iff_not, List.length_nil]
    omega
  rest := rfl

/-- Cleared again, the block is the one the bytes were fed to, but for `RXBUF`. -/
theorem clear_eq (h : Buffered s bytes t) (hc : s.Cleared) :
    t.clear = { s with rxbuf := t.rxbuf } :=
  calc t.clear = { s with rxbuf := t.rxbuf, cursor := 0, ovf := false } := by rw [h.rest]; rfl
    _ = { s with rxbuf := t.rxbuf } := by rw [← hc.1, ← hc.2]

/-- With fewer than `CAPACITY - 1` bytes buffered there is room for one more. -/
theorem stored (h : Buffered s bytes t) {b : Byte} (hb : b ≠ t.cfg.marker)
    (hr : t.cursor + 1 < t.cfg.capacity) :
    Buffered s (bytes ++ [b]) (t.stored (Memory.write t.rxbuf t.cursor b)) := by
  have hlen : bytes.length + 1 < s.cfg.capacity := by
    have := h.cfg_eq ▸ h.cursor_eq ▸ hr
    omega
  refine ⟨h.inv.stored hr hb, ?_, ?_, ?_⟩
  · rw [State.stored_write_frame h.frame (Nat.lt_of_succ_lt hr), List.take_of_length_le (by omega),
      List.take_of_length_le (by simp; omega)]
  · have hovf : t.ovf = false := by rw [h.ovf, decide_eq_false_iff_not]; omega
    show t.ovf = _
    rw [hovf, eq_comm, decide_eq_false_iff_not, List.length_append, List.length_singleton]
    omega
  · rw [h.rest]; rfl

/-- From `CAPACITY - 1` bytes on a further byte leaves the first `CAPACITY - 1` as they are. -/
theorem dropped (h : Buffered s bytes t) (hfull : t.cfg.capacity ≤ t.cursor + 1) (b : Byte) :
    Buffered s (bytes ++ [b]) t.dropped := by
  have hlen : s.cfg.capacity ≤ bytes.length + 1 := by
    have := h.cfg_eq ▸ h.cursor_eq ▸ hfull
    omega
  refine ⟨h.inv.dropped hfull, ?_, ?_, ?_⟩
  · rw [List.take_append_of_le_length (by omega)]
    exact h.frame
  · show true = _
    rw [eq_comm, decide_eq_true_eq, List.length_append, List.length_singleton]
    exact hlen
  · rw [h.rest]; rfl

theorem snoc (h : Buffered s bytes t) {b : Byte} (hb : b ≠ s.cfg.marker) :
    ∃ u, rxConsume b t = .next u ∧ Buffered s (bytes ++ [b]) u := by
  have hb' : b ≠ t.cfg.marker := h.cfg_eq ▸ hb
  by_cases hr : t.cursor + 1 < t.cfg.capacity
  · exact ⟨_, rxConsume_room hb' hr, h.stored hb' hr⟩
  · have hfull := Nat.not_lt.1 hr
    exact ⟨_, rxConsume_full hb' hfull, h.dropped hfull b⟩

end Buffered

/-- Bytes that are not the marker, fed to a cleared good block, are buffered. -/
theorem feed_buffered {s : State} {bytes : ByteSeq} (hi : s.Inv) (hc : s.Cleared)
    (hm : s.cfg.marker ∉ bytes) : ∃ t, feed bytes s = .next t ∧ Buffered s bytes t := by
  induction bytes using List.reverseRecOn with
  | nil => exact ⟨s, rfl, .nil hi hc⟩
  | append_singleton before b ih =>
    obtain ⟨hbefore, hb⟩ := not_or.1 (mt List.mem_append.2 hm)
    obtain ⟨t, ht, hbuf⟩ := ih hbefore
    obtain ⟨u, hu, hbuf'⟩ := hbuf.snoc (b := b) fun h => hb (List.mem_singleton.2 h.symm)
    exact ⟨u, (feed_append_of_next ht [b]).trans (feed_singleton_of_next hu), hbuf'⟩

/-- Settles O39: byte by byte, each one is stored at the end of the frame or dropped. -/
theorem feedBuffersUpToTheCapacity : Obligations.FeedBuffersUpToTheCapacity := by
  intro s bytes hi hc hm
  obtain ⟨t, ht, h⟩ := feed_buffered hi hc hm
  exact ⟨t, ht, h.inv, h.frame, h.cursor_eq, h.ovf, h.rest⟩

/-! ### The marker that ends it -/

/-- A frame that has been fed, and then the marker: the marker meets the buffered frame. -/
theorem feed_frame_of_marker {s t u : State} {bytes : ByteSeq} (ht : feed bytes s = .next t)
    (h : Buffered s bytes t) (hu : rxMarker t = .next u) :
    feed (bytes ++ [s.cfg.marker]) s = .next u ∧ u.Inv ∧ u.Cleared := by
  rw [← rxConsume_marker] at hu
  refine ⟨?_, h.inv.rxConsume hu, rxConsume_marker_cleared hu⟩
  rw [feed_append_of_next ht, ← h.cfg_eq, feed_singleton_of_next hu]

/-- Settles O40: the marker decodes the buffered frame, and the handler that issues nothing uses up
one reply. -/
theorem frameIsDeliveredAtItsMarker : Obligations.FrameIsDeliveredAtItsMarker := by
  intro s bytes hid hi hc hq hh hm
  obtain ⟨t, ht, h⟩ := feed_buffered hi hc hm
  have hmark := rxMarker_some (h.hnd_eq.trans hh) h.frame
  have hq' : State.Quiet { s with rxbuf := t.rxbuf } := hq
  rw [h.clear_eq hc, hq'.dispatch_eq, h.cfg_eq] at hmark
  obtain ⟨hfeed, hinv, hcl⟩ := feed_frame_of_marker ht h hmark
  exact ⟨_, hfeed, hinv, hcl, rfl, rfl⟩

/-- Settles O41: the marker clears the buffered frame. -/
theorem frameWithoutAHandlerIsLost : Obligations.FrameWithoutAHandlerIsLost := by
  intro s bytes hi hc hh hm
  obtain ⟨t, ht, h⟩ := feed_buffered hi hc hm
  have hmark := rxMarker_none (h.hnd_eq.trans hh)
  rw [h.clear_eq hc] at hmark
  obtain ⟨hfeed, hinv, -⟩ := feed_frame_of_marker ht h hmark
  exact ⟨_, hfeed, hinv, rfl⟩

/-! ### `RX_OVF` and `SET_HANDLER` -/

/-- Settles O49: the word has `opc` 0xA and `imm8` 0, and the query returns the flag. -/
theorem overflowQueryAnswersTheFlag : Obligations.OverflowQueryAnswersTheFlag :=
  ⟨fun data arg => decode_opWord 0xA 0 data arg, fun _ => rfl⟩

/-- Settles O50: that many bytes leave `OVF` set, and any marker clears it. -/
theorem overflowLastsUntilTheMarker : Obligations.OverflowLastsUntilTheMarker := by
  intro s bytes hi hc hm hlen
  obtain ⟨t, ht, h⟩ := feed_buffered hi hc hm
  obtain ⟨u, hu⟩ := rxConsume_next (b := t.cfg.marker) ⟨_, h.frame⟩
  have htovf : t.ovf = true := h.ovf.trans (decide_eq_true hlen)
  obtain ⟨-, huovf⟩ := rxConsume_marker_cleared hu
  refine ⟨t, u, ht, h.cfg_eq ▸ hu, ?_, ?_⟩
  · rw [← htovf]
    exact overflowQueryAnswersTheFlag.2 t
  · rw [← huovf]
    exact overflowQueryAnswersTheFlag.2 u

/-- The word of a handler tag is the one the encoder writes for it. -/
theorem setHandlerWord_eq (hid : Tag) :
    0xB080 + hid.setWidth 16 = opWord 0xB (handlerImm (some hid)) := by
  apply BitVec.eq_of_toNat_eq
  have := hid.isLt
  rw [opWord_toNat, handlerImm_some_toNat]
  simp
  omega

/-- Settles O51: both words are the encoder's, and the operation writes the one field. -/
theorem setHandlerReplacesTheHandler : Obligations.SetHandlerReplacesTheHandler := by
  refine ⟨fun data arg => decode_opWord 0xB 0 data arg, fun hid data arg => ?_, fun _ _ => rfl⟩
  rw [setHandlerWord_eq, decode_opWord]
  exact decodeSetHandler_handlerImm (some hid)

/-! ### The loopback -/

theorem length_le_encodePayload_length (c : Config) (p : ByteSeq) :
    p.length ≤ (encodePayload c p).length := by
  unfold encodePayload
  split
  · rw [cobsEncode_length]; omega
  · rw [slipEncode_length]; omega

/-- Where the encoded payload fits, so does the payload, and it is sent (43_framer.md R180). -/
theorem execTxSend_of_fits {p : ByteSeq} {s : State} (hp : p ≠ []) (hs : s.cfg.sinkEn = true)
    (h : LengthFits s.cfg (encodePayload s.cfg p).length) :
    execTxSend p s = .next (s.emitTx (wireBytes s.cfg p)) := by
  have h' := h.mono (length_le_encodePayload_length s.cfg p)
  simp [execTxSend, hp, hs, (fits_iff _ _).2 h, (fits_iff _ _).2 h']

/-- No length up to `CAPACITY` is too long for a finite `LENW` (00_scope.md R10). -/
theorem State.Inv.lengthFits {s : State} (h : s.Inv) {n : Nat} (hn : n ≤ s.cfg.capacity) :
    LengthFits s.cfg n := ((config_wf_iff _).1 h.cfg_wf).2.mono hn

/-- Settles O42: the block holds no marker and fits, so it is the frame delivered, and decodes to the
payload. -/
theorem cobsLoopbackDeliversThePayload : Obligations.CobsLoopbackDeliversThePayload := by
  intro s p hid hi hc hq hh hcodec hmarker hs hp hfit
  have henc : encodePayload s.cfg p = cobsEncode p := by rw [encodePayload, hcodec]
  have hlen : LengthFits s.cfg (encodePayload s.cfg p).length := by
    rw [henc]
    exact hi.lengthFits (hfit.trans (Nat.sub_le _ _))
  obtain ⟨t, ht, -, hcl, hpkt, -⟩ := frameIsDeliveredAtItsMarker s (cobsEncode p) hid hi hc hq hh
    (hmarker ▸ cobsEncodedBlockIsZeroFree p)
  refine ⟨wireBytes s.cfg p, t, execTxSend_of_fits hp hs hlen, ?_, hcl, ?_⟩
  · rw [wireBytes, henc, ht]
  · rw [hpkt, List.take_of_length_le hfit, decodeFrame, hcodec]
    simp only [cobsDecode_cobsEncode, Decoded.bytes]

/-- Settles O43: the leading `END` is the marker of an empty frame, and the symbols after it are a
frame without the marker that decodes to the payload. -/
theorem slipLoopbackDeliversThePayload : Obligations.SlipLoopbackDeliversThePayload := by
  intro s p hid hi hc hq hh hcodec hmarker hs hp hfit
  have henc : encodePayload s.cfg p = slipEncode p := by rw [encodePayload, hcodec]
  have hlen : LengthFits s.cfg (encodePayload s.cfg p).length := by
    have := hi.capacity_ge
    rw [henc, slipEncode_length]
    exact hi.lengthFits (by omega)
  obtain ⟨t, ht, hti, htc, htpkt, hteq⟩ :=
    frameIsDeliveredAtItsMarker s [] hid hi hc hq hh List.not_mem_nil
  have htcfg : t.cfg = s.cfg := by rw [hteq]
  have hthnd : t.hnd = some hid := by rw [hteq]; exact hh
  have hsymbols : t.cfg.marker ∉ p.flatMap slipSymbol := by
    rw [htcfg, hmarker]
    exact slipEnd_notMem_slipSymbols p
  obtain ⟨u, hu, -, huc, hupkt, -⟩ :=
    frameIsDeliveredAtItsMarker t _ hid hti htc (hq.feed ht) hthnd hsymbols
  refine ⟨wireBytes s.cfg p, u, execTxSend_of_fits hp hs hlen, ?_, huc, ?_⟩
  · have hwire : wireBytes s.cfg p =
        ([] ++ [s.cfg.marker]) ++ (p.flatMap slipSymbol ++ [t.cfg.marker]) := by
      rw [wireBytes, henc, slipEncode, htcfg, hmarker]
      rfl
    rw [hwire, feed_append_of_next ht, hu]
  · have hempty : (decodeFrame s.cfg []).bytes = [] := by rw [decodeFrame, hcodec]; rfl
    have hframe : (decodeFrame s.cfg (p.flatMap slipSymbol)).bytes = p := by
      rw [decodeFrame, hcodec]
      simp only [slipDecode, slipDecLoop_slipSymbols, Decoded.bytes, List.nil_append]
    have hcut : (p.flatMap slipSymbol).take (s.cfg.capacity - 1) = p.flatMap slipSymbol :=
      List.take_of_length_le (by rwa [slipSymbols_length])
    rw [hupkt, htpkt, htcfg, hcut, hframe, List.take_nil, hempty, List.append_assoc]
    rfl

/-! ### `RX_DRAIN` -/

theorem State.turn_of_drain {s : State} {outer : List Activity} (h : s.calls = .drain :: outer) :
    s.turn = .drain (s.withCalls outer) := by
  simp only [State.turn, h]

/-- Settles O10: what arrives leaves the suspended loop innermost. -/
theorem stepGoesOnWithASuspendedDrain : Obligations.StepGoesOnWithASuspendedDrain := by
  intro s outer hwf hc
  rw [step_of_wf hwf, State.turn_of_drain (s.arrive_calls.trans hc)]
  rfl

theorem execRxDrain_of_nil {s : State} (h : s.rxq = []) : execRxDrain s = .next s := by
  simp only [execRxDrain, h]

theorem execRxDrain_of_cons {s : State} {b : Byte} {rest : ByteSeq} (h : s.rxq = b :: rest) :
    execRxDrain s = rxConsume b (s.drainPop rest) := by
  simp only [execRxDrain, h]

/-- Settles O44: one case for an empty source and one for an oldest byte. -/
theorem drainConsumesTheOldestByte : Obligations.DrainConsumesTheOldestByte := fun _ =>
  ⟨execRxDrain_of_nil, fun _ _ => execRxDrain_of_cons⟩

/-! ### A whole drain

Under a handler that issues nothing, what a byte does depends neither on what `RXQ` holds nor on what
has begun and not ended, so it is the same inside the drain as on its own. -/

/-- `RXQ` replaced by `q`. -/
def State.withRxq (q : ByteSeq) (s : State) : State := { s with rxq := q }

/-- An answer with `RXQ` of its next state replaced. -/
def Answer.withRxq (q : ByteSeq) : Answer → Answer
  | .next t => .next (t.withRxq q)
  | .fault f => .fault f
  | .refused r => .refused r

theorem rxStore_withRxq (b : Byte) (q : ByteSeq) (s : State) :
    rxStore b (s.withRxq q) = Answer.withRxq q (rxStore b s) := by
  by_cases hr : s.cursor + 1 < s.cfg.capacity
  · rw [rxStore_room hr]
    exact rxStore_room (s := s.withRxq q) hr
  · have hfull := Nat.not_lt.1 hr
    rw [rxStore_full hfull]
    exact rxStore_full (s := s.withRxq q) hfull

theorem rxMarker_withRxq (q : ByteSeq) (s : State) :
    rxMarker (s.withRxq q) = Answer.withRxq q (rxMarker s) := by
  have hhnd : (s.withRxq q).hnd = s.hnd := rfl
  have hframe : (s.withRxq q).frame = s.frame := rfl
  cases hh : s.hnd with
  | none =>
    rw [rxMarker_none hh]
    exact rxMarker_none (hhnd.trans hh)
  | some hid =>
    cases hf : s.frame with
    | error f => simp only [rxMarker, hhnd, hframe, hh, hf, Answer.withRxq]
    | ok frame =>
      rw [rxMarker_some hh hf]
      exact rxMarker_some (hhnd.trans hh) (hframe.trans hf)

theorem rxConsume_withRxq (b : Byte) (q : ByteSeq) (s : State) :
    rxConsume b (s.withRxq q) = Answer.withRxq q (rxConsume b s) := by
  have hcfg : (s.withRxq q).cfg = s.cfg := rfl
  by_cases hb : b = s.cfg.marker
  · simp only [rxConsume, hcfg, if_pos hb, rxMarker_withRxq]
  · simp only [rxConsume, hcfg, if_neg hb, rxStore_withRxq]

/-- A drain with `q` before it, suspended in what is otherwise the state `s`. -/
def State.draining (q : ByteSeq) (outer : List Activity) (s : State) : State :=
  (s.withCalls (.drain :: outer)).withRxq q

/-- The drain's test, with nothing arriving. -/
theorem step_draining {s : State} (hwf : s.cfg.wf = true) (hn : s.NothingArrives) (q : ByteSeq)
    (outer : List Activity) :
    step (s.draining q outer) = execRxDrain ((s.withCalls outer).withRxq q) := by
  have harr : (s.draining q outer).arrive = s.draining q outer := State.arrive_of_nothing hn.1 hn.2
  rw [stepGoesOnWithASuspendedDrain (s.draining q outer) outer hwf rfl, harr]
  rfl

/-- One round of the drain is its byte consumed, with the rest of `RXQ` before the drain. -/
theorem step_draining_cons {s : State} (hwf : s.cfg.wf = true) (hq : s.Quiet)
    (hn : s.NothingArrives) (b : Byte) (rest : ByteSeq) (outer : List Activity) :
    step (s.draining (b :: rest) outer) =
      Answer.withRxq rest (Answer.withCalls (.drain :: outer) (rxConsume b s)) := by
  rw [step_draining hwf hn, execRxDrain_of_cons rfl, ← hq.rxConsume_withCalls, ← rxConsume_withRxq]
  rfl

theorem steps_draining (q : ByteSeq) {s : State} (hwf : s.cfg.wf = true) (hq : s.Quiet)
    (hn : s.NothingArrives) (outer : List Activity) :
    steps (q.length + 1) (s.draining q outer) = feed q ((s.withCalls outer).withRxq []) := by
  induction q generalizing s with
  | nil =>
    rw [List.length_nil, steps, step_draining hwf hn, execRxDrain_of_nil rfl]
    rfl
  | cons b rest ih =>
    have hexec : exec (.rxByte b) ((s.withCalls outer).withRxq []) =
        Answer.withRxq [] (Answer.withCalls outer (rxConsume b s)) := by
      rw [exec_rxByte, ← hq.rxConsume_withCalls, ← rxConsume_withRxq]
    rw [List.length_cons, steps, feed, step_draining_cons hwf hq hn, hexec]
    cases ht : rxConsume b s with
    | next t => exact ih ((rxConsume_frame ht).1 ▸ hwf) (hq.rxConsume ht) (hn.rxConsume ht)
    | fault f => rfl
    | refused r => rfl

/-- Settles O45: round by round, the drain consumes what the feed consumes, until its last test finds
nothing. -/
theorem drainRunsAsFeed : Obligations.DrainRunsAsFeed := by
  intro s outer hwf hq hn hc
  have hs : s = s.draining s.rxq outer := by
    rw [State.draining, State.withCalls_of_calls hc]
    rfl
  conv_lhs => rw [hs]
  exact steps_draining s.rxq hwf hq hn outer

/-! ### What is emitted stays emitted -/

theorem rxConsume_pkt_prefix {b : Byte} {s t : State} (h : rxConsume b s = .next t) :
    s.pkt <+: t.pkt := by
  rcases rxConsume_cases h with ⟨-, -, rfl⟩ | ⟨hid, frame, -, -, -, rfl⟩ | ⟨-, -, rfl⟩ | ⟨-, -, rfl⟩
  · exact List.prefix_rfl
  · exact List.prefix_append _ _
  · exact List.prefix_rfl
  · exact List.prefix_rfl

theorem Receives.pkt_eq {s u : State} {i : Instr} {b : Byte} (h : Receives s i b u) :
    u.pkt = s.pkt := by
  cases h with
  | rxByte => rfl
  | rxDrain => rfl

/-- Each operation appends to at most one of the three logs. -/
theorem exec_logs_prefix {i : Instr} {s t : State} (h : exec i s = .next t) :
    s.pkt <+: t.pkt ∧ s.txq <+: t.txq ∧ s.results <+: t.results := by
  rcases exec_kinds h with ⟨b, u, hr, hu⟩ | ⟨-, rfl⟩ | ⟨hb, hd⟩
  · obtain ⟨-, -, -, -, -, htxq, hres, -⟩ := hr.frame hu
    rw [htxq, hres, ← hr.pkt_eq]
    exact ⟨rxConsume_pkt_prefix hu, List.prefix_rfl, List.prefix_rfl⟩
  · exact ⟨List.prefix_rfl, List.prefix_rfl, List.prefix_rfl⟩
  · rcases exec_cases h hb hd with ⟨r, rfl, -⟩ | ⟨v, -, rfl⟩ | ⟨p, -, bytes, rfl⟩ | ⟨-, rfl⟩
    · exact ⟨List.prefix_rfl, List.prefix_rfl, List.prefix_append _ _⟩
    · exact ⟨List.prefix_rfl, List.prefix_rfl, List.prefix_rfl⟩
    · exact ⟨List.prefix_rfl, List.prefix_append _ _, List.prefix_rfl⟩
    · exact ⟨List.prefix_rfl, List.prefix_rfl, List.prefix_rfl⟩

/-- Settles O57: a step performs at most one operation, in a state that has the logs of the one
before it. -/
theorem logsOnlyGrow : Obligations.LogsOnlyGrow := by
  intro s t h
  obtain ⟨-, heq | ⟨i, u, hu, heq⟩⟩ := step_cases h
  · rw [heq]
    exact ⟨List.prefix_rfl, List.prefix_rfl, List.prefix_rfl⟩
  · have := exec_logs_prefix hu
    rwa [heq] at this

end Sys2Proof.Machine
end

section
/-! PROOFS. The statements of 43_framer.md: what `TX_SEND` writes (R180, R181), and that it commutes with
`RX_BYTE` (R185). -/

namespace Sys2Proof.Machine

/-! ### `TX_SEND` -/

theorem encodePayload_of_cobs {c : Config} (h : c.codec = .cobs) (p : ByteSeq) :
    encodePayload c p = cobsEncode p := by rw [encodePayload, h]

theorem encodePayload_of_slip {c : Config} (h : c.codec = .slip) (p : ByteSeq) :
    encodePayload c p = slipEncode p := by rw [encodePayload, h]

/-- The no-op of 43_framer.md R181. -/
theorem execTxSend_of_nothing_to_send {p : ByteSeq} {s : State} (h : LengthFits s.cfg p.length)
    (hn : p = [] ∨ s.cfg.sinkEn = false) : execTxSend p s = .next s := by
  have hidle : (p.isEmpty || !s.cfg.sinkEn) = true := by simpa using hn
  rw [execTxSend, (fits_iff _ _).2 h, if_pos hidle]
  rfl

/-- The bytes that reach the sink, written out (43_framer.md R182). -/
theorem exec_txSend_of_encodePayload {p e : ByteSeq} {s : State} (he : encodePayload s.cfg p = e)
    (hp : p ≠ []) (hs : s.cfg.sinkEn = true) (h : LengthFits s.cfg e.length) :
    exec (.txSend p) s = .next { s with txq := s.txq ++ e ++ [s.cfg.marker] } := by
  subst he
  rw [List.append_assoc]
  exact execTxSend_of_fits hp hs h

/-- Settles O53: each codec's encoder is `ENCODE`, and the two no-ops are one. -/
theorem txSendWritesTheFrameAndTheMarker : Obligations.TxSendWritesTheFrameAndTheMarker :=
  fun p _ h =>
    ⟨fun arg => decode_opWord 0xC 0 p arg,
      fun hp hs hc => exec_txSend_of_encodePayload (encodePayload_of_cobs hc p) hp hs,
      fun hp hs hc => exec_txSend_of_encodePayload (encodePayload_of_slip hc p) hp hs,
      fun hp => execTxSend_of_nothing_to_send h (.inl hp),
      fun hs => execTxSend_of_nothing_to_send h (.inr hs)⟩

/-! ### `TX_SEND` and `RX_BYTE`

`TX_SEND` reads only the configuration, which `RX_BYTE` does not write, and `RX_BYTE` does not read
the one field that `TX_SEND` writes, `TXQ`. -/

theorem fits_false_of_not_lengthFits {c : Config} {n : Nat} (h : ¬ LengthFits c n) :
    fits c.lenw n = false := Bool.eq_false_of_not_eq_true (mt (fits_iff c n).1 h)

/-- Everything `TX_SEND` can do when it goes on. -/
theorem execTxSend_cases {p : ByteSeq} {s t : State} (h : execTxSend p s = .next t) :
    (LengthFits s.cfg p.length ∧ (p = [] ∨ s.cfg.sinkEn = false) ∧ t = s) ∨
    (p ≠ [] ∧ s.cfg.sinkEn = true ∧ LengthFits s.cfg (encodePayload s.cfg p).length ∧
      t = s.emitTx (wireBytes s.cfg p)) := by
  by_cases hf : LengthFits s.cfg p.length
  · by_cases hn : p = [] ∨ s.cfg.sinkEn = false
    · rw [execTxSend_of_nothing_to_send hf hn] at h
      cases h
      exact .inl ⟨hf, hn, rfl⟩
    · obtain ⟨hp, hs⟩ := not_or.1 hn
      have hs := Bool.eq_true_of_not_eq_false hs
      by_cases he : LengthFits s.cfg (encodePayload s.cfg p).length
      · rw [execTxSend_of_fits hp hs he] at h
        cases h
        exact .inr ⟨hp, hs, he, rfl⟩
      · rw [execTxSend_refused_encoded hp hs (fits_false_of_not_lengthFits he)] at h
        cases h
  · rw [execTxSend_refused_operand (fits_false_of_not_lengthFits hf)] at h
    cases h

/-- A byte consumed after an emission to the sink does what it does before it. -/
theorem rxConsume_of_emitTx {b : Byte} {bytes : ByteSeq} {s t : State}
    (h : rxConsume b (s.emitTx bytes) = .next t) :
    ∃ v, rxConsume b s = .next v ∧ t = v.emitTx bytes := by
  rcases rxConsume_cases h with ⟨rfl, hh, rfl⟩ | ⟨hid, frame, rfl, hh, hf, rfl⟩ | ⟨hb, hr, rfl⟩ |
    ⟨hb, hr, rfl⟩
  · exact ⟨_, (rxConsume_marker s).trans (rxMarker_none hh), rfl⟩
  · exact ⟨_, (rxConsume_marker s).trans (rxMarker_some hh hf), rfl⟩
  · exact ⟨_, rxConsume_room hb hr, rfl⟩
  · exact ⟨_, rxConsume_full hb hr, rfl⟩

/-- Settles O54: the byte leaves the configuration as it was, so that the same bytes are sent after
it. -/
theorem txSendAndRxByteCommute : Obligations.TxSendAndRxByteCommute := by
  intro p b s u t hu ht
  rcases execTxSend_cases hu with ⟨hf, hn, rfl⟩ | ⟨hp, hs, he, rfl⟩
  · have hcfg : t.cfg = u.cfg := (rxConsume_frame ht).1
    exact ⟨t, ht, execTxSend_of_nothing_to_send (hcfg ▸ hf) (hcfg ▸ hn)⟩
  · obtain ⟨v, hv, rfl⟩ := rxConsume_of_emitTx ht
    have hcfg : v.cfg = s.cfg := (rxConsume_frame hv).1
    exact ⟨v, hv, hcfg ▸ execTxSend_of_fits hp (hcfg ▸ hs) (hcfg ▸ he)⟩

end Sys2Proof.Machine
end

section
/-! PROOFS. The statements of 60_exceptions.md: that receiving always completes (R190), what a step
without an operation does (R199, R210), nesting without end (R200), and several instances (R208). -/

namespace Sys2Proof.Machine

/-! ### Receiving completes -/

/-- A drain stops the machine only where the frame cannot be read, which taking a byte off `RXQ` does
not change. -/
theorem execRxDrain_next {s : State} (h : ∃ frame, s.frame = .ok frame) :
    ∃ t, execRxDrain s = .next t := by
  cases hq : s.rxq with
  | nil => exact ⟨s, execRxDrain_of_nil hq⟩
  | cons b rest =>
    obtain ⟨t, ht⟩ := rxConsume_next (b := b) (s := s.drainPop rest) h
    exact ⟨t, (execRxDrain_of_cons hq).trans ht⟩

/-- An operation that goes on from a good state goes on to a good state. -/
theorem State.Inv.exec_next {s : State} (h : s.Inv) {i : Instr} (hi : ∃ t, exec i s = .next t) :
    ∃ t, exec i s = .next t ∧ t.Inv :=
  hi.imp fun _ ht => ⟨ht, h.of_exec ht⟩

/-- Settles O37: the frame of a good state can be read, and every operation keeps the invariant. -/
theorem receiveOperationsComplete : Obligations.ReceiveOperationsComplete := fun _ h =>
  ⟨fun _ => h.exec_next (rxConsume_next h.frame_ok), h.exec_next (execRxDrain_next h.frame_ok)⟩

/-! ### A marker on a cleared block -/

theorem State.Cleared.clear_eq {s : State} (h : s.Cleared) : s.clear = s :=
  calc s.clear = { s with cursor := 0, ovf := false } := rfl
    _ = s := by rw [← h.1, ← h.2]

theorem State.Cleared.frame_eq {s : State} (h : s.Cleared) : s.frame = .ok [] := by
  rw [State.frame, h.1]
  rfl

/-- Either codec decodes the empty frame to the empty packet. -/
theorem decodeFrame_nil_bytes (c : Config) : (decodeFrame c []).bytes = [] := by
  unfold decodeFrame
  cases c.codec with
  | cobs => rfl
  | slip => rfl

/-- A marker on a cleared block delivers an empty packet (42_reassembler.md R158). -/
theorem rxConsume_marker_of_cleared {s : State} {hid : Tag} (hc : s.Cleared)
    (hh : s.hnd = some hid) : rxConsume s.cfg.marker s = .next (s.dispatch hid []) := by
  rw [rxConsume_marker, rxMarker_some hh hc.frame_eq, hc.clear_eq, decodeFrame_nil_bytes]

/-! ### Nesting without end -/

/-- The handler of a cleared block feeds it a marker at every dispatch (60_exceptions.md R200). -/
structure State.FeedsMarker (s : State) (hid : Tag) : Prop where
  cfg_wf : s.cfg.wf = true
  cleared : s.Cleared
  hnd : s.hnd = some hid
  replies : s.replies = []
  handler : handlerEntry s.handlers hid = .lines [.line (opLine (.rxByte s.cfg.marker))]

namespace State.FeedsMarker

variable {s : State} {hid : Tag}

theorem arrive_withCalls (h : s.FeedsMarker hid) (calls : List Activity) :
    (s.arrive.withCalls calls).FeedsMarker hid where
  cfg_wf := s.arrive_cfg ▸ h.cfg_wf
  cleared := ⟨s.arrive_cursor.trans h.cleared.1, s.arrive_ovf.trans h.cleared.2⟩
  hnd := s.arrive_hnd.trans h.hnd
  replies := s.arrive_replies.trans h.replies
  handler := by simpa using h.handler

theorem dispatch (h : s.FeedsMarker hid) (bytes : ByteSeq) :
    (s.dispatch hid bytes).FeedsMarker hid where
  cfg_wf := h.cfg_wf
  cleared := h.cleared
  hnd := h.hnd
  replies := congrArg List.tail h.replies
  handler := h.handler

/-- A dispatch begins one more call, around which everything begun before stays suspended. -/
theorem dispatch_calls (h : s.FeedsMarker hid) (bytes : ByteSeq) :
    (s.dispatch hid bytes).calls = .host [opLine (.rxByte s.cfg.marker)] :: s.calls := by
  have hlines : (s.emitPkt hid bytes).handlerLines hid bytes = [opLine (.rxByte s.cfg.marker)] :=
    State.handlerLines_of_lines h.replies h.handler bytes
  rw [State.dispatch, State.callHandler_calls, hlines]
  rfl

/-- The issued marker is dispatched inside the call that issued it. -/
theorem step_eq (h : s.FeedsMarker hid) {outer : List Activity}
    (hc : s.calls = .host [opLine (.rxByte s.cfg.marker)] :: outer) :
    step s = .next ((s.arrive.withCalls (.host [] :: outer)).dispatch hid []) := by
  have h' := h.arrive_withCalls (.host [] :: outer)
  rw [stepRunsTheIssuedOperation s _ _ [] outer h.cfg_wf hc (decodeOfEncodeIsTheOperation _),
    exec_rxByte, ← rxConsume_marker_of_cleared h'.cleared h'.hnd, State.withCalls_cfg,
    State.arrive_cfg]

/-- Each step leaves the block as it found it, one event and one suspended call further on. -/
theorem steps_next (n : Nat) (h : s.FeedsMarker hid) {outer : List Activity}
    (hc : s.calls = .host [opLine (.rxByte s.cfg.marker)] :: outer) :
    ∃ t, steps n s = .next t ∧ t.pkt = s.pkt ++ List.replicate n ⟨hid, []⟩ ∧
      t.calls.length = s.calls.length + n := by
  induction n generalizing s outer with
  | zero => exact ⟨s, rfl, by simp, rfl⟩
  | succ n ih =>
    have h' := h.arrive_withCalls (.host [] :: outer)
    have hcalls := h'.dispatch_calls []
    obtain ⟨t, ht, hpkt, hlen⟩ := ih (h'.dispatch []) hcalls
    refine ⟨t, by rw [steps, h.step_eq hc]; exact ht, ?_, ?_⟩
    · rw [hpkt, State.dispatch_pkt, State.withCalls_pkt, State.arrive_pkt, List.append_assoc,
        List.replicate_succ, List.singleton_append]
    · rw [hlen, hcalls, hc]
      simp only [State.withCalls_calls, List.length_cons]
      omega

end State.FeedsMarker

/-- Settles O48: by induction on the number of steps, with everything begun so far as the context of
the innermost call. -/
theorem endlessHandlerNestsWithoutEnd : Obligations.EndlessHandlerNestsWithoutEnd :=
  fun _ _ _ n hwf hc hh hr he hcalls => State.FeedsMarker.steps_next n ⟨hwf, hc, hh, hr, he⟩ hcalls

/-! ### A step without an operation -/

theorem State.turn_of_idle {s : State} (h : s.calls = []) : s.turn = .quiet s := by
  simp only [State.turn, h]

theorem State.turn_of_done {s : State} {outer : List Activity} (h : s.calls = .host [] :: outer) :
    s.turn = .quiet (s.withCalls outer) := by
  simp only [State.turn, h, State.hostReturn]

theorem State.turn_of_rxq {s : State} {bytes : ByteSeq} {lines : List HostLine}
    {outer : List Activity} (h : s.calls = .host (.rxq bytes :: lines) :: outer) :
    s.turn = .quiet { s with rxq := s.rxq ++ bytes, calls := .host lines :: outer } := by
  simp only [State.turn, h]

theorem step_of_quiet {s t : State} (hwf : s.cfg.wf = true) (h : s.arrive.turn = .quiet t) :
    step s = .next t := by
  rw [step_of_wf hwf, h]
  rfl

/-- Settles O11: what arrives leaves the control stack alone, and each of its three shapes is a quiet
turn. -/
theorem stepWithoutAnOperation : Obligations.StepWithoutAnOperation := fun s hwf =>
  ⟨fun hc => step_of_quiet hwf (State.turn_of_idle (s.arrive_calls.trans hc)),
    fun _ hc => step_of_quiet hwf (State.turn_of_done (s.arrive_calls.trans hc)),
    fun _ _ _ hc => step_of_quiet hwf (State.turn_of_rxq (s.arrive_calls.trans hc))⟩

/-! ### Several instances -/

/-- Everything a step of the product can do when it goes on: nothing where the list has no place `k`,
else one step of the state there, put back in its place. -/
theorem stepInstance_cases {k : Nat} {before after : List State}
    (h : stepInstance k before = .next after) :
    (before[k]? = none ∧ after = before) ∨
      ∃ s t, before[k]? = some s ∧ step s = .next t ∧ after = before.set k t := by
  unfold stepInstance at h
  split at h
  · rename_i hk
    cases h
    exact .inl ⟨hk, rfl⟩
  · rename_i s hk
    split at h
    · rename_i t ht
      cases h
      exact .inr ⟨s, t, hk, ht, rfl⟩
    · cases h
    · cases h

/-- Settles O60: a write at place `k` of the list leaves every other place alone. -/
theorem instancesShareNothing : Obligations.InstancesShareNothing := by
  intro k before after h j hj
  rcases stepInstance_cases h with ⟨-, rfl⟩ | ⟨s, t, -, -, rfl⟩
  · rfl
  · exact List.getElem?_set_ne hj.symm

end Sys2Proof.Machine
end

section
/-! PROOFS. The statements of 70_reset_and_hazards.md: what `RESET` clears (R220), and a source that
never runs dry (R233). -/

namespace Sys2Proof.Machine

/-! ### `RESET` -/

theorem exec_reset (s : State) :
    exec .reset s = .next { s with rxbuf := [], cursor := 0, ovf := false, hnd := none } := rfl

/-- Settles O52: each field is read off the state after `RESET`, and an empty buffer reads as
unwritten everywhere. -/
theorem resetClearsTheBlock : Obligations.ResetClearsTheBlock := fun s =>
  ⟨_, exec_reset s, rfl, rfl, rfl, fun _ => rfl, rfl⟩

/-! ### A source that never runs dry -/

/-- Without a handler every byte is consumed, whether or not the frame can be read, and no call
begins. -/
theorem rxConsume_next_of_no_handler (b : Byte) {s : State} (h : s.hnd = none) :
    ∃ t, rxConsume b s = .next t ∧ t.calls = s.calls := by
  by_cases hb : b = s.cfg.marker
  · subst hb
    exact ⟨s.clear, (rxConsume_marker s).trans (rxMarker_none h), s.clear_calls⟩
  · by_cases hr : s.cursor + 1 < s.cfg.capacity
    · exact ⟨_, rxConsume_room hb hr, State.stored_calls _ s⟩
    · exact ⟨s.dropped, rxConsume_full hb (Nat.not_lt.1 hr), s.dropped_calls⟩

/-- A drain without a handler is in progress, and the byte `b` arrives before every step
(70_reset_and_hazards.md R233). -/
structure State.FedDrain (s : State) (b : Byte) (outer : List Activity) : Prop where
  cfg_wf : s.cfg.wf = true
  hnd : s.hnd = none
  arrivals : s.arrivals = []
  arrivalsThen : s.arrivalsThen = [b]
  calls : s.calls = .drain :: outer

namespace State.FedDrain

variable {s : State} {b : Byte} {outer : List Activity}

theorem arrive_eq (h : s.FedDrain b outer) : s.arrive = { s with rxq := s.rxq ++ [b] } := by
  rw [State.arrive_of_nil h.arrivals, h.arrivalsThen]

/-- The drain's test finds a byte, and the bytes behind it are as many as there were before the
arrival. -/
theorem arrive_rxq_cons (h : s.FedDrain b outer) :
    ∃ oldest rest, s.arrive.rxq = oldest :: rest ∧ rest.length = s.rxq.length := by
  rw [h.arrive_eq]
  cases hq : s.rxq with
  | nil => exact ⟨b, [], rfl, rfl⟩
  | cons oldest rest => exact ⟨oldest, rest ++ [b], rfl, List.length_append⟩

/-- One round consumes one byte for the one that arrived, and leaves the drain in progress. -/
theorem step_next (h : s.FedDrain b outer) :
    ∃ t, step s = .next t ∧ t.FedDrain b outer ∧ t.rxq.length = s.rxq.length := by
  obtain ⟨oldest, rest, hq, hlen⟩ := h.arrive_rxq_cons
  have hround : step s = rxConsume oldest ((s.arrive.withCalls outer).drainPop rest) :=
    (stepGoesOnWithASuspendedDrain s outer h.cfg_wf h.calls).trans (execRxDrain_of_cons hq)
  rw [h.arrive_eq] at hround
  obtain ⟨t, ht, hcalls⟩ := rxConsume_next_of_no_handler oldest
    (s := ({ s with rxq := s.rxq ++ [b] }.withCalls outer).drainPop rest) h.hnd
  obtain ⟨hcfg, harr, harr', -, hhnd, hrxq, -, -⟩ := rxConsume_frame ht
  exact ⟨t, hround.trans ht,
    { cfg_wf := hcfg ▸ h.cfg_wf
      hnd := hhnd.trans h.hnd
      arrivals := harr.trans h.arrivals
      arrivalsThen := harr'.trans h.arrivalsThen
      calls := hcalls },
    (congrArg List.length hrxq).trans hlen⟩

theorem steps_next (n : Nat) (h : s.FedDrain b outer) :
    ∃ t, steps n s = .next t ∧ t.FedDrain b outer ∧ t.rxq.length = s.rxq.length := by
  induction n generalizing s with
  | zero => exact ⟨s, rfl, h, rfl⟩
  | succ n ih =>
    obtain ⟨u, hu, hdrain, hulen⟩ := h.step_next
    obtain ⟨t, ht, hdrain', htlen⟩ := ih hdrain
    exact ⟨t, by rw [steps, hu]; exact ht, hdrain', htlen.trans hulen⟩

end State.FedDrain

/-- Settles O47: by induction on the number of steps, each of which leaves the drain in progress with
a source as long as it found it. -/
theorem endlessSourceKeepsTheDrainRunning : Obligations.EndlessSourceKeepsTheDrainRunning := by
  intro s b outer n hwf hh ha ha' hc
  have h : s.FedDrain b outer := ⟨hwf, hh, ha, ha', hc⟩
  obtain ⟨t, ht, hdrain, hlen⟩ := h.steps_next n
  exact ⟨t, ht, hdrain.calls, hlen⟩

end Sys2Proof.Machine
end
